-- ==== Sys2Proof/Word.lean ====
section
/-! DEFINITION. The words of the bus: register words, stream bytes, and the host's bus accesses as plain data
(spec/00_scope.md R5 to R7; spec/20_memory.md R35). -/

namespace Sys2Proof

/-- A 32-bit register word or command word (R5, R12). -/
abbrev Word := BitVec 32

/-- One byte of the chunk stream, or an operand IMM8 (R5, R45). -/
abbrev Byte := BitVec 8

/-- One host bus access (R7: `MemRead(addr, size)` and `MemWrite(addr, size, data)` are "the only two ways the
outside world reaches the block"). `addr` is a byte address on the bus and `size` the access's width in bytes. The
data of an access that is not 4 bytes wide is never looked at: such an access is refused (R35). -/
inductive Access where
  | memRead (addr size : Nat)
  | memWrite (addr size : Nat) (data : Word)
  deriving DecidableEq, Repr

/-- Why a bus access is outside the interface (R35, R88; U1 and U2 of spec/93_implementation_defined.md). -/
inductive BadAccess where
  /-- the access is narrower or wider than 32 bits (R35, U1) -/
  | badWidth
  /-- the offset is not a multiple of 4 (R35, U1) -/
  | misaligned
  /-- the address is not in BASE..BASE+0x3F (R33, R37, U2) -/
  | outsideWindow
  deriving DecidableEq, Repr

end Sys2Proof
end

