-- ==== Sys2Proof/Config.lean ====
section
/-! DEFINITION. The implementation parameters of spec/00_scope.md R5. They are fixed for a machine and no step
changes them; State carries them, so that a statement about every state is a statement about every value of them.
CMD_LATENCY, the third parameter of R5, is "not observable by any rule of this spec" and has no field (log entry 4). -/

namespace Sys2Proof

/-- The parameters OUT_DEPTH and BASE (R5). -/
structure Config where
  /-- OUT_DEPTH, the capacity of the output FIFO in bytes: 8 to 255 (R5) -/
  outDepth : Nat
  /-- BASE, the bus address of the register window: a multiple of 64 (R5) -/
  base : Nat
  deriving DecidableEq, Repr

/-- The parameters State.reset has: OUT_DEPTH at "this spec's default", 16 (R5), and BASE, which R5 leaves open, at 0
(DESIGN CHOICE, log entry 1). -/
def Config.standard : Config := { outDepth := 16, base := 0 }

end Sys2Proof
end

