-- ==== Sys2Proof/Syntax.lean ====
section
/-! DEFINITION. The instructions: the thirteen commands of spec/30_encoding.md R46 and the sixteen bus operations of
R50, one constructor per mnemonic of spec/opcode_table.json. The rows that share a mnemonic (RD_RSVD at three offsets,
WR_IGNORED at fifteen) are one constructor whose operand is the window offset. -/

namespace Sys2Proof

/-- A command (format cmd32, R44 (a)) or a bus operation (format bus, R44 (b)). -/
inductive Instr where
  /-- NOP (R56) -/
  | nop
  /-- CRC_INIT (R69) -/
  | crcInit
  /-- CRC_BYTE b (R70) -/
  | crcByte (b : Byte)
  /-- LEN_SHIFT b (R73) -/
  | lenShift (b : Byte)
  /-- TYPE_SHIFT b (R64) -/
  | typeShift (b : Byte)
  /-- TX_START (R74) -/
  | txStart
  /-- TX_BYTE b (R75) -/
  | txByte (b : Byte)
  /-- TX_END (R76) -/
  | txEnd
  /-- RX_START (R80) -/
  | rxStart
  /-- RX_BYTE b (R81) -/
  | rxByte (b : Byte)
  /-- RX_END (R82) -/
  | rxEnd
  /-- CLR_ERR (R57) -/
  | clrErr
  /-- SOFT_RESET (R58) -/
  | softReset
  /-- RD_ID, offset 0x00 (R84, R13) -/
  | rdId
  /-- RD_CMD, offset 0x04 (R86) -/
  | rdCmd
  /-- RD_STATUS, offset 0x08 (R84, R15) -/
  | rdStatus
  /-- RD_ERR, offset 0x0C (R84, R18) -/
  | rdErr
  /-- RD_ERR_CMD, offset 0x10 (R84, R19) -/
  | rdErrCmd
  /-- RD_LEN, offset 0x14 (R84, R20) -/
  | rdLen
  /-- RD_TYPE, offset 0x18 (R84, R21) -/
  | rdType
  /-- RD_TYPE_INFO, offset 0x1C (R84, R22) -/
  | rdTypeInfo
  /-- RD_CRC_STATE, offset 0x20 (R84, R23) -/
  | rdCrcState
  /-- RD_CRC_RESULT, offset 0x24 (R84, R24) -/
  | rdCrcResult
  /-- RD_COUNT, offset 0x28 (R84, R25) -/
  | rdCount
  /-- RD_RX_CRC, offset 0x2C (R84, R26) -/
  | rdRxCrc
  /-- RD_OUT, offset 0x30; pops (R85) -/
  | rdOut
  /-- RD_RSVD, offset 0x34, 0x38 or 0x3C (R86) -/
  | rdRsvd (off : BitVec 6)
  /-- WR_CMD, a write of the command word w to offset 0x04 (R53) -/
  | wrCmd (w : Word)
  /-- WR_IGNORED, a write to any other window offset (R87) -/
  | wrIgnored (off : BitVec 6) (data : Word)
  deriving DecidableEq, Repr

end Sys2Proof
end

