-- ==== Sys2Proof/WellFormed.lean ====
section
/-! DEFINITION. Which terms of Instr are instructions of spec/30_encoding.md R50: only the two constructors that carry
a window offset can be ill-formed. -/

namespace Sys2Proof

/-- `off` is one of the three reserved offsets, the ones RD_RSVD reads (R29, R50). -/
def isReservedOffset (off : BitVec 6) : Bool :=
  off == 0x34#6 || off == 0x38#6 || off == 0x3C#6

/-- `off` is a multiple of 4 other than CMD's 0x04, the offsets whose writes are ignored (R50, R87). -/
def isIgnoredOffset (off : BitVec 6) : Bool :=
  off.extractLsb' 0 2 == 0#2 && off != 0x04#6

/-- The offset an instruction carries is one its mnemonic has in the opcode table. -/
def Instr.wellFormed : Instr → Bool
  | .rdRsvd off => isReservedOffset off
  | .wrIgnored off _ => isIgnoredOffset off
  | .nop | .crcInit | .crcByte _ | .lenShift _ | .typeShift _ | .txStart | .txByte _ | .txEnd
  | .rxStart | .rxByte _ | .rxEnd | .clrErr | .softReset
  | .rdId | .rdCmd | .rdStatus | .rdErr | .rdErrCmd | .rdLen | .rdType | .rdTypeInfo | .rdCrcState
  | .rdCrcResult | .rdCount | .rdRxCrc | .rdOut | .wrCmd _ => true

end Sys2Proof
end

