-- ==== Sys2Proof/Decode.lean ====
section
/-! DEFINITION. Decoding and encoding (spec/30_encoding.md R44 to R50): the command word of CMD, the bus access, and
the table's own numbering of both. -/

namespace Sys2Proof

/-- The thirteen commands of R46, what `decode(w)` of R47 answers. -/
inductive Cmd where
  | nop | crcInit | crcByte (b : Byte) | lenShift (b : Byte) | typeShift (b : Byte)
  | txStart | txByte (b : Byte) | txEnd | rxStart | rxByte (b : Byte) | rxEnd | clrErr | softReset
  deriving DecidableEq, Repr

/-- Why a command word decodes to ILLEGAL (R48). A word with several of these defects is named by the first, in the
order RSV, OPC, IMM8; the block raises the same ILLEGAL_CMD for all of them. -/
inductive IllegalWord where
  /-- R48 (b): RSV = w[23:8] is not 0 -/
  | reservedField
  /-- R48 (a): OPC is not in the table -/
  | unassignedOpc
  /-- R48 (c): IMM8 is not 0 and the command has no operand -/
  | unexpectedOperand
  deriving DecidableEq, Repr

/-- Why a form decodes to no instruction. -/
inductive Reject where
  | illegalWord (why : IllegalWord)
  | badAccess (why : BadAccess)
  deriving DecidableEq, Repr

/-- An instruction as it stands on the wires, the two formats of R44: a command word, or a 32-bit bus access at a
window offset (a read, or a write with its data). -/
inductive Form where
  | cmd32 (w : Word)
  | read (off : BitVec 6)
  | write (off : BitVec 6) (data : Word)
  deriving DecidableEq, Repr

/-- A command as an instruction. -/
def Cmd.toInstr : Cmd → Instr
  | .nop => .nop
  | .crcInit => .crcInit
  | .crcByte b => .crcByte b
  | .lenShift b => .lenShift b
  | .typeShift b => .typeShift b
  | .txStart => .txStart
  | .txByte b => .txByte b
  | .txEnd => .txEnd
  | .rxStart => .rxStart
  | .rxByte b => .rxByte b
  | .rxEnd => .rxEnd
  | .clrErr => .clrErr
  | .softReset => .softReset

/-- A command's name in the opcode table (R46). -/
def Cmd.mnemonic : Cmd → String
  | .nop => "NOP"
  | .crcInit => "CRC_INIT"
  | .crcByte _ => "CRC_BYTE"
  | .lenShift _ => "LEN_SHIFT"
  | .typeShift _ => "TYPE_SHIFT"
  | .txStart => "TX_START"
  | .txByte _ => "TX_BYTE"
  | .txEnd => "TX_END"
  | .rxStart => "RX_START"
  | .rxByte _ => "RX_BYTE"
  | .rxEnd => "RX_END"
  | .clrErr => "CLR_ERR"
  | .softReset => "SOFT_RESET"

/-! ### Decoding -/

/-- OPC = w[31:24] (R44). -/
def opcField (w : Word) : Byte := w.extractLsb' 24 8

/-- RSV = w[23:8] (R44). -/
def rsvField (w : Word) : BitVec 16 := w.extractLsb' 8 16

/-- IMM8 = w[7:0] (R44, R45). -/
def immField (w : Word) : Byte := w.extractLsb' 0 8

/-- A command without an operand is legal only with IMM8 = 0 (R48 (c)). -/
def bareCmd (c : Cmd) (imm : Byte) : Except IllegalWord Cmd :=
  if imm = 0#8 then .ok c else .error .unexpectedOperand

/-- `decode(w)` of R47: the command of the row of R46 that w matches, or ILLEGAL, with its reason in R48. -/
def decodeCmd (w : Word) : Except IllegalWord Cmd :=
  if rsvField w ≠ 0#16 then .error .reservedField
  else match opcField w with
    | 0x00#8 => bareCmd .nop (immField w)
    | 0x01#8 => bareCmd .crcInit (immField w)
    | 0x02#8 => .ok (.crcByte (immField w))
    | 0x08#8 => .ok (.lenShift (immField w))
    | 0x09#8 => .ok (.typeShift (immField w))
    | 0x10#8 => bareCmd .txStart (immField w)
    | 0x11#8 => .ok (.txByte (immField w))
    | 0x12#8 => bareCmd .txEnd (immField w)
    | 0x20#8 => bareCmd .rxStart (immField w)
    | 0x21#8 => .ok (.rxByte (immField w))
    | 0x22#8 => bareCmd .rxEnd (immField w)
    | 0xF0#8 => bareCmd .clrErr (immField w)
    | 0xF1#8 => bareCmd .softReset (immField w)
    | _ => .error .unassignedOpc

/-- The bus operation of a read at a window offset (R50). The sixteen arms are all the multiples of 4. -/
def decodeRead (off : BitVec 6) : Except BadAccess Instr :=
  match off with
  | 0x00#6 => .ok .rdId
  | 0x04#6 => .ok .rdCmd
  | 0x08#6 => .ok .rdStatus
  | 0x0C#6 => .ok .rdErr
  | 0x10#6 => .ok .rdErrCmd
  | 0x14#6 => .ok .rdLen
  | 0x18#6 => .ok .rdType
  | 0x1C#6 => .ok .rdTypeInfo
  | 0x20#6 => .ok .rdCrcState
  | 0x24#6 => .ok .rdCrcResult
  | 0x28#6 => .ok .rdCount
  | 0x2C#6 => .ok .rdRxCrc
  | 0x30#6 => .ok .rdOut
  | 0x34#6 => .ok (.rdRsvd 0x34#6)
  | 0x38#6 => .ok (.rdRsvd 0x38#6)
  | 0x3C#6 => .ok (.rdRsvd 0x3C#6)
  | _ => .error .misaligned

/-- The bus operation of a write at a window offset (R50). -/
def decodeWrite (off : BitVec 6) (data : Word) : Except BadAccess Instr :=
  if off.extractLsb' 0 2 ≠ 0#2 then .error .misaligned
  else if off = 0x04#6 then .ok (.wrCmd data)
  else .ok (.wrIgnored off data)

/-- The decoder of both formats (R47, R50). -/
def decode : Form → Except Reject Instr
  | .cmd32 w =>
    match decodeCmd w with
    | .ok c => .ok c.toInstr
    | .error e => .error (.illegalWord e)
  | .read off =>
    match decodeRead off with
    | .ok i => .ok i
    | .error e => .error (.badAccess e)
  | .write off data =>
    match decodeWrite off data with
    | .ok i => .ok i
    | .error e => .error (.badAccess e)

/-- The window offset of a bus address, for a 4-byte access (R33, R35, R37). -/
def windowOffset (c : Config) (addr size : Nat) : Except BadAccess (BitVec 6) :=
  if size ≠ 4 then .error .badWidth
  else if addr < c.base ∨ c.base + 64 ≤ addr then .error .outsideWindow
  else .ok (BitVec.ofNat 6 (addr - c.base))

/-- What a host bus access is: a bus operation, or an access outside the interface (R35, R50, R88). -/
def decodeAccess (c : Config) : Access → Except BadAccess Instr
  | .memRead addr size =>
    match windowOffset c addr size with
    | .ok off => decodeRead off
    | .error e => .error e
  | .memWrite addr size data =>
    match windowOffset c addr size with
    | .ok off => decodeWrite off data
    | .error e => .error e

/-! ### Encoding -/

/-- The command word (OPC << 24) or imm, with RSV = 0 (R44, R51). -/
def cmdWord (opc imm : Byte) : Word := opc ++ 0#16 ++ imm

/-- The word of a command (R46). -/
def encodeCmd : Cmd → Word
  | .nop => cmdWord 0x00 0
  | .crcInit => cmdWord 0x01 0
  | .crcByte b => cmdWord 0x02 b
  | .lenShift b => cmdWord 0x08 b
  | .typeShift b => cmdWord 0x09 b
  | .txStart => cmdWord 0x10 0
  | .txByte b => cmdWord 0x11 b
  | .txEnd => cmdWord 0x12 0
  | .rxStart => cmdWord 0x20 0
  | .rxByte b => cmdWord 0x21 b
  | .rxEnd => cmdWord 0x22 0
  | .clrErr => cmdWord 0xF0 0
  | .softReset => cmdWord 0xF1 0

/-- The form of an instruction (R46, R50). -/
def encode : Instr → Form
  | .nop => .cmd32 (encodeCmd .nop)
  | .crcInit => .cmd32 (encodeCmd .crcInit)
  | .crcByte b => .cmd32 (encodeCmd (.crcByte b))
  | .lenShift b => .cmd32 (encodeCmd (.lenShift b))
  | .typeShift b => .cmd32 (encodeCmd (.typeShift b))
  | .txStart => .cmd32 (encodeCmd .txStart)
  | .txByte b => .cmd32 (encodeCmd (.txByte b))
  | .txEnd => .cmd32 (encodeCmd .txEnd)
  | .rxStart => .cmd32 (encodeCmd .rxStart)
  | .rxByte b => .cmd32 (encodeCmd (.rxByte b))
  | .rxEnd => .cmd32 (encodeCmd .rxEnd)
  | .clrErr => .cmd32 (encodeCmd .clrErr)
  | .softReset => .cmd32 (encodeCmd .softReset)
  | .rdId => .read 0x00#6
  | .rdCmd => .read 0x04#6
  | .rdStatus => .read 0x08#6
  | .rdErr => .read 0x0C#6
  | .rdErrCmd => .read 0x10#6
  | .rdLen => .read 0x14#6
  | .rdType => .read 0x18#6
  | .rdTypeInfo => .read 0x1C#6
  | .rdCrcState => .read 0x20#6
  | .rdCrcResult => .read 0x24#6
  | .rdCount => .read 0x28#6
  | .rdRxCrc => .read 0x2C#6
  | .rdOut => .read 0x30#6
  | .rdRsvd off => .read off
  | .wrCmd w => .write 0x04#6 w
  | .wrIgnored off data => .write off data

/-- The bus access that brings a form to the block: a command word is written to CMD at BASE + 0x04 (R53). -/
def formAccess (c : Config) : Form → Access
  | .cmd32 w => .memWrite (c.base + 4) 4 w
  | .read off => .memRead (c.base + off.toNat) 4
  | .write off data => .memWrite (c.base + off.toNat) 4 data

/-- The bus access by which the host performs an instruction. -/
def accessOf (c : Config) (i : Instr) : Access := formAccess c (encode i)

/-! ### The opcode table's rows and numbering -/

/-- One row of the command table of R46. -/
structure CmdRow where
  mnemonic : String
  pattern : Word
  mask : Word
  deriving DecidableEq, Repr

/-- The table of R46 as the spec prints it: a word is the row's command iff `w &&& mask = pattern`. -/
def cmdTable : List CmdRow :=
  [ ⟨"NOP", 0x00000000, 0xFFFFFFFF⟩, ⟨"CRC_INIT", 0x01000000, 0xFFFFFFFF⟩,
    ⟨"CRC_BYTE", 0x02000000, 0xFFFFFF00⟩, ⟨"LEN_SHIFT", 0x08000000, 0xFFFFFF00⟩,
    ⟨"TYPE_SHIFT", 0x09000000, 0xFFFFFF00⟩, ⟨"TX_START", 0x10000000, 0xFFFFFFFF⟩,
    ⟨"TX_BYTE", 0x11000000, 0xFFFFFF00⟩ ] ++
  [ ⟨"TX_END", 0x12000000, 0xFFFFFFFF⟩, ⟨"RX_START", 0x20000000, 0xFFFFFFFF⟩,
    ⟨"RX_BYTE", 0x21000000, 0xFFFFFF00⟩, ⟨"RX_END", 0x22000000, 0xFFFFFFFF⟩,
    ⟨"CLR_ERR", 0xF0000000, 0xFFFFFFFF⟩, ⟨"SOFT_RESET", 0xF1000000, 0xFFFFFFFF⟩ ]

/-- The form of a word as spec/opcode_table.json numbers it: a row of one byte is the bus key dir<<6 | off (the
table's "key" field), with write data 0; a longer row is a command word. -/
def formOfTableWord (nbits w : Nat) : Option Form :=
  if nbits ≤ 8 then
    if w < 64 then some (.read (BitVec.ofNat 6 w))
    else if w < 128 then some (.write (BitVec.ofNat 6 w) 0)
    else none
  else if w < 2 ^ 32 then some (.cmd32 (BitVec.ofNat 32 w))
  else none

/-- The instruction the decoder reads from a word of the opcode table. -/
def decodeTableWord (nbits w : Nat) : Option Instr :=
  match formOfTableWord nbits w with
  | some f =>
    match decode f with
    | .ok i => some i
    | .error _ => none
  | none => none

end Sys2Proof
end

