-- ==== Sys2Proof/Machine/Operands.lean ====
section
/-! DEFINITION. Operand forms and byte packing: the one operand is IMM8, an unsigned byte (spec/30_encoding.md R45);
32-bit fields are shifted in byte by byte and sent most significant byte first (spec/20_memory.md R34). -/

namespace Sys2Proof.Machine

/-- `zext_32(b)` (R6). -/
def zext32 (b : Byte) : Word := b.setWidth 32

/-- `v[23:0] : b`, one byte shifted into the low end of a register (R6, R45). -/
def shiftIn (v : Word) (b : Byte) : Word := v.extractLsb' 0 24 ++ b

/-- `be32(v)`: the bytes v[31:24], v[23:16], v[15:8], v[7:0] (R6). -/
def be32 (v : Word) : List Byte :=
  [v.extractLsb' 24 8, v.extractLsb' 16 8, v.extractLsb' 8 8, v.extractLsb' 0 8]

/-- The big-endian word `b0:b1:b2:b3` (R6, R79). -/
def ofBe32 (b0 b1 b2 b3 : Byte) : Word := b0 ++ b1 ++ b2 ++ b3

/-- Chunk-type byte k, `t_k = TYPE[31-8k : 24-8k]` for k = 0..3 (R59). -/
def typeByte (t : Word) (k : Nat) : Byte := t.extractLsb' (24 - 8 * k) 8

end Sys2Proof.Machine
end

