-- ==== Sys2Proof/Machine/State.lean ====
section
/-! DEFINITION. The state of the block (spec/10_state.md R9: "exactly the following elements, and nothing else is
state"), with the parameters it runs under and the host's side of a run (spec/70_reset_and_hazards.md R108). -/

namespace Sys2Proof.Machine

/-- MODE, the sequencer state (R16). The values 6 and 7, "never reached", are unrepresentable (U7). -/
inductive Mode where
  /-- 0: no frame in progress -/
  | idle
  /-- 1: framer, header sent, data bytes being sent -/
  | txData
  /-- 2: checker, receiving the 4 length bytes -/
  | rxLen
  /-- 3: checker, receiving the 4 type bytes -/
  | rxType
  /-- 4: checker, receiving data bytes -/
  | rxData
  /-- 5: checker, receiving the 4 CRC bytes -/
  | rxCrc
  deriving DecidableEq, Repr

/-- The seven error kinds of R89. They are recorded values, not stops: raising one gives a next state (R55). -/
inductive ErrKind where
  | illegalCmd | seqError | outOverflow | txOverrun | txUnderrun | unexpectedEof | crcMismatch
  deriving DecidableEq, Repr

/-- The block "never halts by itself" (R108) and every error is a recorded value (R55, R89), so nothing raises a fault
and the type has no constructor. -/
inductive Fault where
  deriving DecidableEq, Repr

/-- Why a step is refused. Every refusal is raised by `step` before an instruction runs; no instruction's meaning
refuses. -/
inductive Refusal where
  /-- An instruction without a meaning yet, raised by an arm of `exec`; no arm does. Safe. -/
  | notModelled (mnemonic : String)
  /-- Raised by `step`: the next access is not a 32-bit access at a 4-aligned offset of the window. R35, R88: "A model
  refuses such an access". Safe: no step, no value. -/
  | badAccess (why : BadAccess)
  /-- Raised by `step`: the state breaks an invariant of R32, or a parameter is outside R5's range, in which case "a
  start state holding one is refused" (U8, U11; U5). No run from reset reaches such a state. Safe. -/
  | illegalState
  /-- Raised by `step`: the host has no access left, and "a run ends when the host's sequence ends" (R108). Safe. -/
  | runOver
  deriving DecidableEq, Repr

/-- The twelve elements of R9, the parameters of R5, and the host's side of a run. -/
structure State where
  /-- MODE (R16) -/
  mode : Mode
  /-- IDX, 2 bits (R17) -/
  idx : BitVec 2
  /-- ERR_VALID (R18) -/
  errValid : Bool
  /-- ERR_CODE, 4 bits (R18) -/
  errCode : BitVec 4
  /-- ERR_CMD (R19) -/
  errCmd : Word
  /-- DONE_OK (R28) -/
  doneOk : Bool
  /-- LEN (R20) -/
  len : Word
  /-- TYPE, type byte 0 in bits 31:24 (R21) -/
  type : Word
  /-- CRC_STATE, before the final XOR (R23) -/
  crcState : Word
  /-- COUNT (R25) -/
  count : Word
  /-- RX_CRC (R26) -/
  rxCrc : Word
  /-- FIFO, oldest byte first (R27) -/
  fifo : List Byte
  /-- OUT_DEPTH and BASE (R5); no step changes them -/
  cfg : Config
  /-- the host's accesses not yet performed, next first (R8, R108); the model's own field -/
  pending : List Access
  /-- the values the host's reads returned, oldest first (R108's observation); the model's own field -/
  reads : List Word
  deriving DecidableEq, Repr

/-- The reset state of R30 under the given parameters, before the host's first access. -/
def State.resetWith (c : Config) : State where
  mode := .idle
  idx := 0#2
  errValid := false
  errCode := 0#4
  errCmd := 0x00000000#32
  doneOk := false
  len := 0x00000000#32
  type := 0x00000000#32
  crcState := 0xFFFFFFFF#32
  count := 0x00000000#32
  rxCrc := 0x00000000#32
  fifo := []
  cfg := c
  pending := []
  reads := []

/-- The machine right after hardware reset (R30, R98), with the standard parameters. -/
def State.reset : State := State.resetWith Config.standard

/-- What a meaning answers. -/
abbrev Result := Host.Outcome State Fault Refusal

end Sys2Proof.Machine
end

