-- ==== Sys2Proof/Machine/Ops.lean ====
section
/-! DEFINITION. The named operations over the state: the FIFO, the host's reading of a value, dropping a command
(spec/40_control.md R54), taking an error (R55), the return from it (R57), reset (spec/10_state.md R30), and the
states the model gives a step (R32). -/

namespace Sys2Proof.Machine

/-! ### The output FIFO (R27) -/

/-- OUT_LEVEL = |FIFO| (R27). -/
def State.outLevel (s : State) : Nat := s.fifo.length

/-- `free` = OUT_DEPTH - OUT_LEVEL (R7). -/
def State.free (s : State) : Nat := s.cfg.outDepth - s.outLevel

/-- `Push` of each byte in order, at the tail (R7). -/
def push (bs : List Byte) (s : State) : State := { s with fifo := s.fifo ++ bs }

/-- The state after `Pop()`: the head byte is gone (R7). -/
def dropHead (s : State) : State := { s with fifo := s.fifo.tail }

/-! ### The host's side -/

/-- A bus read returns `v` to the host (R108's observation). -/
def observe (v : Word) (s : State) : State := { s with reads := s.reads ++ [v] }

/-! ### Errors -/

/-- ERR_CODE of an error kind (R89). -/
def ErrKind.code : ErrKind → BitVec 4
  | .illegalCmd => 1#4
  | .seqError => 2#4
  | .outOverflow => 3#4
  | .txOverrun => 4#4
  | .txUnderrun => 5#4
  | .unexpectedEof => 6#4
  | .crcMismatch => 7#4

/-- `raise E` with current command word `w`, the error commit (R55): the first error is recorded, the frame is aborted
to IDLE, and no other element changes. -/
def raise (e : ErrKind) (w : Word) (s : State) : State :=
  { s with
    errValid := true
    errCode := if s.errValid then s.errCode else e.code
    errCmd := if s.errValid then s.errCmd else w
    mode := .idle
    idx := 0#2
    doneOk := false }

/-- A command that is dropped while an error is pending: it changes nothing then, and has effect `t` otherwise (R53,
R54). -/
def unlessPending (s t : State) : State := if s.errValid then s else t

/-- The return from an error, CLR_ERR's effect (R57, R93). -/
def clearError (s : State) : State := { s with errValid := false, errCode := 0#4, errCmd := 0#32 }

/-! ### Reset -/

/-- Reset sets every element of R9 to its value in R30 (R58, R98). The parameters and the host's side are not elements
of the block and stay. -/
def resetBlock (s : State) : State :=
  { s with
    mode := .idle
    idx := 0#2
    errValid := false
    errCode := 0#4
    errCmd := 0x00000000#32
    doneOk := false
    len := 0x00000000#32
    type := 0x00000000#32
    crcState := 0xFFFFFFFF#32
    count := 0x00000000#32
    rxCrc := 0x00000000#32
    fifo := [] }

/-! ### Modes and legal states -/

/-- The value of MODE (R16). -/
def Mode.code : Mode → BitVec 3
  | .idle => 0#3
  | .txData => 1#3
  | .rxLen => 2#3
  | .rxType => 3#3
  | .rxData => 4#3
  | .rxCrc => 5#3

/-- IDX counts bytes in this mode: RX_LEN, RX_TYPE or RX_CRC (R17). -/
def Mode.countsIdx : Mode → Bool
  | .rxLen | .rxType | .rxCrc => true
  | .idle | .txData | .rxData => false

/-- The parameters are in the ranges of R5. -/
def configInRange (c : Config) : Bool :=
  decide (8 ≤ c.outDepth) && decide (c.outDepth ≤ 255) && decide (c.base % 64 = 0)

/-- The invariants of R32, in its order ("MODE <= 5" holds by the type), and the parameters' ranges (R5). -/
def State.legal (s : State) : Bool :=
  (s.mode.countsIdx || s.idx == 0#2)
    && (s.mode != .txData || decide (s.count ≤ s.len))
    && (s.mode != .rxData || decide (s.count < s.len))
    && (s.errValid || (s.errCode == 0#4 && s.errCmd == 0#32))
    && (!s.errValid || (decide (1#4 ≤ s.errCode) && decide (s.errCode ≤ 7#4)))
    && (!s.doneOk || s.mode == .idle)
    && decide (s.outLevel ≤ s.cfg.outDepth)
    && configInRange s.cfg

end Sys2Proof.Machine
end

