-- ==== Sys2Proof/Machine/Crc.lean ====
section
/-! DEFINITION. The CRC-32 generator (spec/42_crc.md): the function, and the commands CRC_INIT and CRC_BYTE. -/

namespace Sys2Proof.Machine

/-- The reflected polynomial 0xEDB88320 (R66). -/
def crcPoly : Word := 0xEDB88320#32

/-- The CRC register's initial value (R67). -/
def crcSeed : Word := 0xFFFFFFFF#32

/-- One turn of R66's loop: shift right, and xor the polynomial if a 1 was shifted out. -/
def crcShift (c : Word) : Word := if c.getLsbD 0 then (c >>> 1) ^^^ crcPoly else c >>> 1

/-- `n` turns of the loop. -/
def crcTurns : Nat → Word → Word
  | 0, c => c
  | n + 1, c => crcTurns n (crcShift c)

/-- `crc_step(c, b)` (R66). -/
def crcStep (c : Word) (b : Byte) : Word := crcTurns 8 (c ^^^ zext32 b)

/-- `crc_fold(c, s)` (R67). -/
def crcFold : Word → List Byte → Word
  | c, [] => c
  | c, b :: s => crcFold (crcStep c b) s

/-- The final XOR (R24, R67). -/
def crcFinal (c : Word) : Word := c ^^^ 0xFFFFFFFF#32

/-- `crc32(s)` (R67). -/
def crc32 (s : List Byte) : Word := crcFinal (crcFold crcSeed s)

/-- CRC_INIT (R69). -/
def execCrcInit (s : State) : Result :=
  .next <| unlessPending s <|
    if s.mode ≠ .idle then raise .seqError (encodeCmd .crcInit) s
    else { s with crcState := crcSeed }

/-- CRC_BYTE b (R70). -/
def execCrcByte (b : Byte) (s : State) : Result :=
  .next <| unlessPending s <|
    if s.mode ≠ .idle then raise .seqError (encodeCmd (.crcByte b)) s
    else { s with crcState := crcStep s.crcState b }

end Sys2Proof.Machine
end

