-- ==== Sys2Proof/Machine/Flags.lean ====
section
/-! DEFINITION. The combinational registers, functions of the state (spec/10_state.md R13, R15, R18, R22, R24), and
the chunk-type classifier (spec/41_chunk_type.md R59 to R63). -/

namespace Sys2Proof.Machine

/-- A flag at bit k of a register word. -/
def flagAt (f : Bool) (k : Nat) : Word := (BitVec.ofBool f).setWidth 32 <<< k

/-- ID (R13). -/
def idWord : Word := 0x504E4701#32

/-- STATUS (R15): zext(OUT_DEPTH)<<16 or zext(OUT_LEVEL)<<8 or DONE_OK<<7 or ERR_VALID<<6 or IDX<<4 or MODE. -/
def statusWord (s : State) : Word :=
  BitVec.ofNat 32 s.cfg.outDepth <<< 16 ||| BitVec.ofNat 32 s.outLevel <<< 8
    ||| flagAt s.doneOk 7 ||| flagAt s.errValid 6
    ||| s.idx.setWidth 32 <<< 4 ||| s.mode.code.setWidth 32

/-- ERR = ERR_VALID<<31 or zext_32(ERR_CODE) (R18). -/
def errWord (s : State) : Word := flagAt s.errValid 31 ||| s.errCode.setWidth 32

/-- CRC_RESULT (R24). -/
def crcResult (s : State) : Word := crcFinal s.crcState

/-! ### The classifier -/

/-- A byte is an ASCII letter: 0x41..0x5A or 0x61..0x7A (R60). -/
def isLetter (x : Byte) : Bool :=
  (decide (0x41#8 ≤ x) && decide (x ≤ 0x5A#8)) || (decide (0x61#8 ≤ x) && decide (x ≤ 0x7A#8))

/-- The case bit of a byte, bit 5, mask 0x20 (R61). -/
def caseBit (x : Byte) : Bool := x.getLsbD 5

/-- TYPE_INFO.ALPHA[k] (R60). -/
def alpha (t : Word) (k : Nat) : Bool := isLetter (typeByte t k)

/-- TYPE_INFO.ALL_ALPHA (R60). -/
def allAlpha (t : Word) : Bool := alpha t 0 && alpha t 1 && alpha t 2 && alpha t 3

/-- TYPE_INFO.CRITICAL: t_0[5] = 0 (R61). -/
def isCritical (t : Word) : Bool := !caseBit (typeByte t 0)

/-- TYPE_INFO.PUBLIC: t_1[5] = 0 (R61). -/
def isPublic (t : Word) : Bool := !caseBit (typeByte t 1)

/-- TYPE_INFO.RESERVED_OK: t_2[5] = 0 (R61). -/
def reservedOk (t : Word) : Bool := !caseBit (typeByte t 2)

/-- TYPE_INFO.SAFE_TO_COPY: t_3[5] = 1 (R61). -/
def safeToCopy (t : Word) : Bool := caseBit (typeByte t 3)

/-- TYPE_INFO.VALID (R62). -/
def typeValid (t : Word) : Bool := allAlpha t && reservedOk t

/-- TYPE_INFO as a whole, a function of TYPE (R22, R63). -/
def typeInfo (t : Word) : Word :=
  flagAt (typeValid t) 9 ||| flagAt (safeToCopy t) 8 ||| flagAt (reservedOk t) 7
    ||| flagAt (isPublic t) 6 ||| flagAt (isCritical t) 5 ||| flagAt (allAlpha t) 4
    ||| flagAt (alpha t 3) 3 ||| flagAt (alpha t 2) 2 ||| flagAt (alpha t 1) 1 ||| flagAt (alpha t 0) 0

end Sys2Proof.Machine
end

