-- ==== Sys2Proof/Machine/BusReads.lean ====
section
/-! DEFINITION. The bus operations other than WR_CMD (spec/45_bus_reads.md R84 to R87). None of them is dropped while
an error is pending, and none raises an error. -/

namespace Sys2Proof.Machine

/-- RD_ID (R84, R13). -/
def execRdId (s : State) : Result := .next (observe idWord s)

/-- RD_CMD (R86): a read of CMD returns 0. -/
def execRdCmd (s : State) : Result := .next (observe 0#32 s)

/-- RD_STATUS (R84, R15). -/
def execRdStatus (s : State) : Result := .next (observe (statusWord s) s)

/-- RD_ERR (R84, R18). -/
def execRdErr (s : State) : Result := .next (observe (errWord s) s)

/-- RD_ERR_CMD (R84, R19). -/
def execRdErrCmd (s : State) : Result := .next (observe s.errCmd s)

/-- RD_LEN (R84, R20). -/
def execRdLen (s : State) : Result := .next (observe s.len s)

/-- RD_TYPE (R84, R21). -/
def execRdType (s : State) : Result := .next (observe s.type s)

/-- RD_TYPE_INFO (R84, R22). -/
def execRdTypeInfo (s : State) : Result := .next (observe (typeInfo s.type) s)

/-- RD_CRC_STATE (R84, R23). -/
def execRdCrcState (s : State) : Result := .next (observe s.crcState s)

/-- RD_CRC_RESULT (R84, R24). -/
def execRdCrcResult (s : State) : Result := .next (observe (crcResult s) s)

/-- RD_COUNT (R84, R25). -/
def execRdCount (s : State) : Result := .next (observe s.count s)

/-- RD_RX_CRC (R84, R26). -/
def execRdRxCrc (s : State) : Result := .next (observe s.rxCrc s)

/-- The value a read of OUT returns: 0x100 or the head byte, or 0 when the FIFO is empty (R27, R85). -/
def outWord (s : State) : Word :=
  match s.fifo with
  | [] => 0x00000000#32
  | b :: _ => 0x00000100#32 ||| zext32 b

/-- RD_OUT (R85): read and pop one output byte. -/
def execRdOut (s : State) : Result := .next (observe (outWord s) (dropHead s))

/-- RD_RSVD (R86): a reserved offset reads 0. -/
def execRdRsvd (_off : BitVec 6) (s : State) : Result := .next (observe 0#32 s)

/-- WR_IGNORED (R87): no state changes. -/
def execWrIgnored (_off : BitVec 6) (_data : Word) (s : State) : Result := .next s

end Sys2Proof.Machine
end

