-- ==== Sys2Proof/Machine/Checker.lean ====
section
/-! DEFINITION. The chunk checker (spec/44_checker_rx.md): RX_START, RX_BYTE and RX_END. -/

namespace Sys2Proof.Machine

/-- RX_START (R80). -/
def execRxStart (s : State) : Result :=
  .next <| unlessPending s <|
    if s.mode ≠ .idle then raise .seqError (encodeCmd .rxStart) s
    else
      { s with
        len := 0#32
        type := 0#32
        rxCrc := 0#32
        count := 0#32
        crcState := crcSeed
        idx := 0#2
        doneOk := false
        mode := .rxLen }

/-- The end of a byte of a 4-byte field: on to mode `m` after the fourth byte, else one more byte counted (R81). -/
def nextInField (m : Mode) (s : State) : State :=
  if s.idx = 3#2 then { s with idx := 0#2, mode := m } else { s with idx := s.idx + 1#2 }

/-- RX_BYTE in RX_LEN (R81). -/
def rxLenByte (b : Byte) (s : State) : State :=
  nextInField .rxType { s with len := shiftIn s.len b }

/-- RX_BYTE in RX_TYPE (R81): LEN = 0 skips RX_DATA. -/
def rxTypeByte (b : Byte) (s : State) : State :=
  nextInField (if s.len = 0#32 then .rxCrc else .rxData)
    { s with type := shiftIn s.type b, crcState := crcStep s.crcState b }

/-- RX_BYTE in RX_DATA (R81): COUNT is compared after the increment. -/
def rxDataByte (b : Byte) (s : State) : State :=
  { s with
    crcState := crcStep s.crcState b
    count := s.count + 1#32
    mode := if s.count + 1#32 = s.len then .rxCrc else s.mode }

/-- RX_BYTE in RX_CRC (R81): on the fourth byte the received CRC, with this byte shifted in, is compared. -/
def rxCrcByte (b : Byte) (s : State) : State :=
  let t := { s with rxCrc := shiftIn s.rxCrc b }
  if s.idx = 3#2 then
    if t.rxCrc = crcFinal s.crcState then { t with idx := 0#2, mode := .idle, doneOk := true }
    else raise .crcMismatch (encodeCmd (.rxByte b)) { t with idx := 0#2 }
  else { t with idx := s.idx + 1#2 }

/-- RX_BYTE b (R81). -/
def execRxByte (b : Byte) (s : State) : Result :=
  .next <| unlessPending s <|
    match s.mode with
    | .rxLen => rxLenByte b s
    | .rxType => rxTypeByte b s
    | .rxData => rxDataByte b s
    | .rxCrc => rxCrcByte b s
    | .idle => raise .seqError (encodeCmd (.rxByte b)) s
    | .txData => raise .seqError (encodeCmd (.rxByte b)) s

/-- RX_END (R82). -/
def execRxEnd (s : State) : Result :=
  .next <| unlessPending s <|
    match s.mode with
    | .rxLen => raise .unexpectedEof (encodeCmd .rxEnd) s
    | .rxType => raise .unexpectedEof (encodeCmd .rxEnd) s
    | .rxData => raise .unexpectedEof (encodeCmd .rxEnd) s
    | .rxCrc => raise .unexpectedEof (encodeCmd .rxEnd) s
    | .txData => raise .seqError (encodeCmd .rxEnd) s
    | .idle => s

end Sys2Proof.Machine
end

