-- ==== Sys2Proof/Machine/ChunkType.lean ====
section
/-! DEFINITION. TYPE_SHIFT, the command of the chunk-type family (spec/41_chunk_type.md R64, R65). The classifier
itself is combinational and stands in Flags.lean. -/

namespace Sys2Proof.Machine

/-- TYPE_SHIFT b (R64). Any byte is accepted (R65). -/
def execTypeShift (b : Byte) (s : State) : Result :=
  .next <| unlessPending s <|
    if s.mode ≠ .idle then raise .seqError (encodeCmd (.typeShift b)) s
    else { s with type := shiftIn s.type b }

end Sys2Proof.Machine
end

