-- ==== Sys2Proof/Machine/Framer.lean ====
section
/-! DEFINITION. The chunk framer (spec/43_framer_tx.md): LEN_SHIFT, TX_START, TX_BYTE and TX_END. -/

namespace Sys2Proof.Machine

/-- LEN_SHIFT b (R73). -/
def execLenShift (b : Byte) (s : State) : Result :=
  .next <| unlessPending s <|
    if s.mode ≠ .idle then raise .seqError (encodeCmd (.lenShift b)) s
    else { s with len := shiftIn s.len b }

/-- TX_START (R74): the length and type fields go out, the CRC is seeded with the type bytes. -/
def execTxStart (s : State) : Result :=
  .next <| unlessPending s <|
    if s.mode ≠ .idle then raise .seqError (encodeCmd .txStart) s
    else if s.free < 8 then raise .outOverflow (encodeCmd .txStart) s
    else
      { push (be32 s.len ++ be32 s.type) s with
        crcState := crcFold crcSeed (be32 s.type)
        count := 0#32
        doneOk := false
        mode := .txData }

/-- TX_BYTE b (R75). -/
def execTxByte (b : Byte) (s : State) : Result :=
  .next <| unlessPending s <|
    if s.mode ≠ .txData then raise .seqError (encodeCmd (.txByte b)) s
    else if s.count = s.len then raise .txOverrun (encodeCmd (.txByte b)) s
    else if s.free < 1 then raise .outOverflow (encodeCmd (.txByte b)) s
    else { push [b] s with crcState := crcStep s.crcState b, count := s.count + 1#32 }

/-- TX_END (R76): the CRC field goes out and the frame ends. -/
def execTxEnd (s : State) : Result :=
  .next <| unlessPending s <|
    if s.mode ≠ .txData then raise .seqError (encodeCmd .txEnd) s
    else if s.count ≠ s.len then raise .txUnderrun (encodeCmd .txEnd) s
    else if s.free < 4 then raise .outOverflow (encodeCmd .txEnd) s
    else { push (be32 (crcFinal s.crcState)) s with mode := .idle, doneOk := true }

end Sys2Proof.Machine
end

