-- ==== Sys2Proof/Machine/Control.lean ====
section
/-! DEFINITION. The control commands NOP, CLR_ERR and SOFT_RESET, and WR_CMD, the dispatch every command word goes
through (spec/40_control.md R53 to R58). -/

namespace Sys2Proof.Machine

/-- NOP (R56): no state changes, in every mode, error pending or not. -/
def execNop (s : State) : Result := .next s

/-- CLR_ERR (R57): legal in every mode and not dropped. -/
def execClrErr (s : State) : Result := .next (clearError s)

/-- SOFT_RESET (R58): legal in every mode and not dropped. -/
def execSoftReset (s : State) : Result := .next (resetBlock s)

/-- WR_CMD w (R53): an ILLEGAL word raises ILLEGAL_CMD, or is dropped while an error is pending (R54); a legal word
performs its command's rule, which holds the drop of R54 for the ten commands that have it. -/
def execWrCmd (w : Word) (s : State) : Result :=
  match decodeCmd w with
  | .error _ => .next (unlessPending s (raise .illegalCmd w s))
  | .ok .nop => execNop s
  | .ok .crcInit => execCrcInit s
  | .ok (.crcByte b) => execCrcByte b s
  | .ok (.lenShift b) => execLenShift b s
  | .ok (.typeShift b) => execTypeShift b s
  | .ok .txStart => execTxStart s
  | .ok (.txByte b) => execTxByte b s
  | .ok .txEnd => execTxEnd s
  | .ok .rxStart => execRxStart s
  | .ok (.rxByte b) => execRxByte b s
  | .ok .rxEnd => execRxEnd s
  | .ok .clrErr => execClrErr s
  | .ok .softReset => execSoftReset s

end Sys2Proof.Machine
end

