-- ==== Sys2Proof/Machine/Dispatch.lean ====
section
/-! DEFINITION. One arm per instruction: its meaning. -/

namespace Sys2Proof.Machine

def exec (i : Instr) (s : State) : Host.Outcome State Fault Refusal :=
  match i with
  | .nop => Sys2Proof.Machine.execNop s
  | .crcInit => Sys2Proof.Machine.execCrcInit s
  | .crcByte b => Sys2Proof.Machine.execCrcByte b s
  | .lenShift b => Sys2Proof.Machine.execLenShift b s
  | .typeShift b => Sys2Proof.Machine.execTypeShift b s
  | .txStart => Sys2Proof.Machine.execTxStart s
  | .txByte b => Sys2Proof.Machine.execTxByte b s
  | .txEnd => Sys2Proof.Machine.execTxEnd s
  | .rxStart => Sys2Proof.Machine.execRxStart s
  | .rxByte b => Sys2Proof.Machine.execRxByte b s
  | .rxEnd => Sys2Proof.Machine.execRxEnd s
  | .clrErr => Sys2Proof.Machine.execClrErr s
  | .softReset => Sys2Proof.Machine.execSoftReset s
  | .rdId => Sys2Proof.Machine.execRdId s
  | .rdCmd => Sys2Proof.Machine.execRdCmd s
  | .rdStatus => Sys2Proof.Machine.execRdStatus s
  | .rdErr => Sys2Proof.Machine.execRdErr s
  | .rdErrCmd => Sys2Proof.Machine.execRdErrCmd s
  | .rdLen => Sys2Proof.Machine.execRdLen s
  | .rdType => Sys2Proof.Machine.execRdType s
  | .rdTypeInfo => Sys2Proof.Machine.execRdTypeInfo s
  | .rdCrcState => Sys2Proof.Machine.execRdCrcState s
  | .rdCrcResult => Sys2Proof.Machine.execRdCrcResult s
  | .rdCount => Sys2Proof.Machine.execRdCount s
  | .rdRxCrc => Sys2Proof.Machine.execRdRxCrc s
  | .rdOut => Sys2Proof.Machine.execRdOut s
  | .rdRsvd off => Sys2Proof.Machine.execRdRsvd off s
  | .wrCmd w => Sys2Proof.Machine.execWrCmd w s
  | .wrIgnored off data => Sys2Proof.Machine.execWrIgnored off data s

end Sys2Proof.Machine
end

