-- ==== Sys2Proof/Machine/Step.lean ====
section
/-! DEFINITION. One step is one host bus access, atomic and complete (spec/00_scope.md R8). -/

namespace Sys2Proof.Machine

/-- The next access of the host is performed (R8). A state the spec refuses (U5, U8, U11), an access outside the
interface (R35, R88) and the end of the host's sequence (R108) give no step. -/
def step (s : State) : Host.Outcome State Fault Refusal :=
  if s.legal then
    match s.pending with
    | [] => .refused .runOver
    | a :: rest =>
      match decodeAccess s.cfg a with
      | .error why => .refused (.badAccess why)
      | .ok i => exec i { s with pending := rest }
  else .refused .illegalState

/-- `s` with the instruction of a table word as the host's next access. A command word is written to CMD. A word that
is no bus key and no command word gives an access outside the window, which `step` refuses. -/
def State.withFetchWord (s : State) (nbits w : Nat) : State :=
  match formOfTableWord nbits w with
  | some f => { s with pending := formAccess s.cfg f :: s.pending }
  | none => { s with pending := .memRead (s.cfg.base + 64) 4 :: s.pending }

end Sys2Proof.Machine
end

