-- ==== Sys2Proof/Machine/Reference.lean ====
section
/-! DEFINITION. The spec's reference functions over byte sequences: the serialization of a chunk (spec/43_framer_tx.md
R72), its parse (spec/44_checker_rx.md R79), and an image's serialization (spec/70_reset_and_hazards.md R100). They are
what the commands' sequences are compared with; no command calls them. -/

namespace Sys2Proof.Machine

/-- `chunk_serialize(t, d)` (R72); the four type bytes are the TYPE word's (R59), and |d| < 2^32. -/
def chunkSerialize (t : Word) (d : List Byte) : List Byte :=
  be32 (BitVec.ofNat 32 d.length) ++ be32 t ++ d ++ be32 (crc32 (be32 t ++ d))

/-- How `chunk_parse` fails (R79). -/
inductive ParseError where
  | unexpectedEof | crcMismatch
  deriving DecidableEq, Repr

/-- The result of `chunk_parse`: the length n, the type t, the data d, the CRC c, and the unread rest (R79). -/
structure ParsedChunk where
  len : Word
  type : Word
  data : List Byte
  crc : Word
  rest : List Byte
  deriving DecidableEq, Repr

/-- `chunk_parse(s)` (R79). After the 8 header bytes, |s| < 12 + n says that fewer than n + 4 bytes follow. -/
def chunkParse : List Byte → Except ParseError ParsedChunk
  | l0 :: l1 :: l2 :: l3 :: t0 :: t1 :: t2 :: t3 :: body =>
    let n := ofBe32 l0 l1 l2 l3
    let t := ofBe32 t0 t1 t2 t3
    let d := body.take n.toNat
    match body.drop n.toNat with
    | c0 :: c1 :: c2 :: c3 :: rest =>
      let c := ofBe32 c0 c1 c2 c3
      if c = crc32 (be32 t ++ d) then .ok { len := n, type := t, data := d, crc := c, rest := rest }
      else .error .crcMismatch
    | _ => .error .unexpectedEof
  | _ => .error .unexpectedEof

/-- The length n a byte sequence declares in its first four bytes, 0 if there are fewer (R79, R83). -/
def declaredLength : List Byte → Nat
  | l0 :: l1 :: l2 :: l3 :: _ => (ofBe32 l0 l1 l2 l3).toNat
  | _ => 0

/-- The 8 signature bytes, which the host writes itself (R100). -/
def pngSignature : List Byte := [0x89, 0x50, 0x4E, 0x47, 0x0D, 0x0A, 0x1A, 0x0A]

/-- PngImage `serialize`: the signature, then each chunk's serialization in held order (R100). -/
def imageSerialize : List (Word × List Byte) → List Byte
  | cs => pngSignature ++ cs.flatMap fun c => chunkSerialize c.1 c.2

end Sys2Proof.Machine
end

