-- ==== Sys2Proof/Machine/HostSequences.lean ====
section
/-! DEFINITION. The host's side: a finite run of instructions (spec/70_reset_and_hazards.md R108), the
pseudo-instructions (spec/30_encoding.md R52), and the host sequences that build PngImage on the block
(spec/70_reset_and_hazards.md R100, R101), which are the host's and no behaviour of the block. DESIGN CHOICE (log entry
15): which of the allowed polling and draining the host sequences take. -/

namespace Sys2Proof.Machine

/-- The instructions of a finite host sequence, performed in order (R108). -/
def runAll : List Instr → State → Result
  | [], s => .next s
  | i :: is, s =>
    match exec i s with
    | .next t => runAll is t
    | .fault r => .fault r
    | .refused r => .refused r

/-! ### Pseudo-instructions (R52) -/

/-- `LEN32 n` -/
def len32 (n : Word) : List Instr := (be32 n).map .lenShift

/-- `TYPE4 "c0c1c2c3"`, with the four type bytes as a TYPE word -/
def type4 (t : Word) : List Instr := (be32 t).map .typeShift

/-- `CRC_BYTES s` -/
def crcBytes (s : List Byte) : List Instr := s.map .crcByte

/-- `TX_BYTES s` -/
def txBytes (s : List Byte) : List Instr := s.map .txByte

/-- `RX_BYTES s` -/
def rxBytes (s : List Byte) : List Instr := s.map .rxByte

/-- `DRAIN k` -/
def drain (k : Nat) : List Instr := List.replicate k .rdOut

/-- `FRAME "tttt", s`, without interleaved DRAINs -/
def frame (t : Word) (s : List Byte) : List Instr :=
  len32 (BitVec.ofNat 32 s.length) ++ type4 t ++ [.txStart] ++ txBytes s ++ [.txEnd]

/-- `CHECK s` -/
def check (s : List Byte) : List Instr := [.rxStart] ++ rxBytes s ++ [.rxEnd]

/-! ### FIFO space (R102) -/

/-- The free FIFO bytes an instruction requires (R74 to R76, R102): 8, 1 and 4 for the TX commands. -/
def spaceNeeded : Instr → Nat
  | .txStart => 8
  | .txByte _ => 1
  | .txEnd => 4
  | .nop | .crcInit | .crcByte _ | .lenShift _ | .typeShift _ | .rxStart | .rxByte _ | .rxEnd | .clrErr | .softReset
  | .rdId | .rdCmd | .rdStatus | .rdErr | .rdErrCmd | .rdLen | .rdType | .rdTypeInfo | .rdCrcState
  | .rdCrcResult | .rdCount | .rdRxCrc | .rdOut | .rdRsvd _ | .wrCmd _ | .wrIgnored _ _ => 0

/-- Along the run of `is` from `s`, each instruction finds the FIFO space it requires (the premise of R78). -/
def spaceSuffices : List Instr → State → Bool
  | [], _ => true
  | i :: is, s =>
    decide (spaceNeeded i ≤ s.free) &&
      match exec i s with
      | .next t => spaceSuffices is t
      | .fault _ => false
      | .refused _ => false

/-- The bytes the host takes from the values its OUT reads returned: those with VALID, bit 8 (R27, R85). -/
def outBytes : List Word → List Byte
  | [] => []
  | v :: vs => if v.getLsbD 8 then v.extractLsb' 0 8 :: outBytes vs else outBytes vs

/-! ### Host sequences for an image -/

/-- `FRAME t, d` with every byte popped as soon as it is pushed, R102's first safe discipline (program P7). -/
def frameDrained (t : Word) (d : List Byte) : List Instr :=
  len32 (BitVec.ofNat 32 d.length) ++ type4 t ++ [.txStart] ++ drain 8
    ++ d.flatMap (fun b => [.txByte b, .rdOut]) ++ [.txEnd] ++ drain 4

/-- The state a run ends in; the sequences below hold only instructions, whose runs are never stopped. -/
def stateAfter (is : List Instr) (s : State) : State :=
  match runAll is s with
  | .next t => t
  | .fault _ => s
  | .refused _ => s

/-- The value a bus read `i` returns to the host, and the state after it. -/
def hostRead (i : Instr) (s : State) : Word × State :=
  let t := stateAfter [i] s
  (t.reads.getLastD 0#32, t)

/-- What R100 requires of the STATUS read after each frame: DONE_OK = 1 and ERR_VALID = 0 (bits 7 and 6, R15). -/
def frameAccepted (status : Word) : Bool := status.getLsbD 7 && !status.getLsbD 6

/-- The bus instructions of the host that serializes an image's chunks: each frame, and the STATUS read after it (R100). -/
def imageInstrs (cs : List (Word × List Byte)) : List Instr :=
  cs.flatMap fun c => frameDrained c.1 c.2 ++ [.rdStatus]

/-- R100's loop over the chunks in held order: the bytes popped, and the state at the end. DESIGN CHOICE (log entry 15):
the host stops at the first frame whose STATUS is not as required, and the answer is then that STATUS. -/
def serializeChunks : List (Word × List Byte) → State → Except Word (List Byte × State)
  | [], s => .ok ([], s)
  | c :: cs, s =>
    let framed := stateAfter (frameDrained c.1 c.2) s
    let popped := outBytes (framed.reads.drop s.reads.length)
    let status := hostRead .rdStatus framed
    if frameAccepted status.1 then
      match serializeChunks cs status.2 with
      | .ok (bytes, e) => .ok (popped ++ bytes, e)
      | .error w => .error w
    else .error status.1

/-- PngImage `serialize` (R100): the host's buffer, whose signature it writes itself, and the state at the end; or the
STATUS of the frame at which the host stopped. -/
def serializeImage (cs : List (Word × List Byte)) (s : State) : Except Word (List Byte × State) :=
  match serializeChunks cs s with
  | .ok (bytes, e) => .ok (pngSignature ++ bytes, e)
  | .error w => .error w

/-- One chunk the host has found: the registers at its end, and the bytes fed since its RX_START (R101). -/
structure FoundChunk where
  len : Word
  type : Word
  crc : Word
  bytes : List Byte
  deriving DecidableEq, Repr

/-- The error kind recorded, as the host reads it: ERR_CODE, bits 3:0 of ERR (R18). -/
def recordedKind (s : State) : BitVec 4 := (hostRead .rdErr s).1.extractLsb' 0 4

/-- Step 2 of R101 over the bytes after the signature, with a STATUS read after every byte. `fed` holds the bytes fed
since RX_START, newest first, and is `none` between chunks. The answer is the chunks in order, or the error code
recorded. -/
def parseChunks : List Byte → Option (List Byte) → State → Except (BitVec 4) (List FoundChunk)
  | [], none, _ => .ok []
  | [], some _, s => .error (recordedKind (stateAfter [.rxEnd] s))
  | b :: bs, fed, s =>
    let start := match fed with
      | none => stateAfter [.rxStart] s
      | some _ => s
    let fed' := b :: fed.getD []
    let status := hostRead .rdStatus (stateAfter [.rxByte b] start)
    let t := status.2
    if status.1.getLsbD 6 then .error (recordedKind t)
    else if status.1.extractLsb' 0 3 = 0#3 then
      match parseChunks bs none t with
      | .ok cs => .ok ({ len := t.len, type := t.type, crc := t.rxCrc, bytes := fed'.reverse } :: cs)
      | .error e => .error e
    else parseChunks bs (some fed') t

/-- PngImage `parse` (R101): `none` is the host's own `InvalidSignature`. -/
def parseImage (buffer : List Byte) (s : State) : Option (Except (BitVec 4) (List FoundChunk)) :=
  if buffer.take 8 = pngSignature then some (parseChunks (buffer.drop 8) none s) else none

end Sys2Proof.Machine
end

