-- ==== Sys2Proof/Safety.lean ====
section
/-! DEFINITION. What a legal state and a clean run are, in the terms the statements use. -/

namespace Sys2Proof.Machine

/-- The invariant every step keeps: the invariants of R32 with R5's ranges (`legal`), and one fact R32 leaves unsaid and
its third line needs: no data byte is counted before the data field (RX_START clears COUNT, R80, and only RX_DATA counts,
R81). -/
structure BlockInv (s : State) : Prop where
  legal : s.legal = true
  countZero : s.mode = .rxLen ∨ s.mode = .rxType → s.count = 0#32

/-- The state of an error commit with kind code `code` and command word `w` from a state without a pending error,
written out (R55). -/
def errorState (code : BitVec 4) (w : Word) (s : State) : State :=
  { s with errValid := true, errCode := code, errCmd := w, mode := .idle, idx := 0#2, doneOk := false }

/-- A cell of the mode legality matrix of R89. -/
inductive Verdict where
  /-- "ok": the command's rule runs -/
  | ok
  /-- "SEQ": it raises SEQ_ERROR -/
  | seq
  /-- "EOF": it raises UNEXPECTED_EOF -/
  | eof
  /-- "nop": it has no effect -/
  | nop
  deriving DecidableEq, Repr

/-- The mode legality matrix of R89, row by row. -/
def legality : Cmd → Mode → Verdict
  | .nop, _ => .ok
  | .clrErr, _ => .ok
  | .softReset, _ => .ok
  | .crcInit, m => if m = .idle then .ok else .seq
  | .crcByte _, m => if m = .idle then .ok else .seq
  | .lenShift _, m => if m = .idle then .ok else .seq
  | .typeShift _, m => if m = .idle then .ok else .seq
  | .txStart, m => if m = .idle then .ok else .seq
  | .rxStart, m => if m = .idle then .ok else .seq
  | .txByte _, m => if m = .txData then .ok else .seq
  | .txEnd, m => if m = .txData then .ok else .seq
  | .rxByte _, m => if m = .idle ∨ m = .txData then .seq else .ok
  | .rxEnd, m => if m = .idle then .nop else if m = .txData then .seq else .eof

/-- Check 4 of R91: COUNT versus LEN. -/
def countError (c : Cmd) (s : State) : Option ErrKind :=
  match c with
  | .txByte _ => if s.count = s.len then some .txOverrun else none
  | .txEnd => if s.count ≠ s.len then some .txUnderrun else none
  | .nop | .crcInit | .crcByte _ | .lenShift _ | .typeShift _ | .txStart | .rxStart | .rxByte _ | .rxEnd
  | .clrErr | .softReset => none

/-- Check 6 of R91: the end of the input in an RX mode, or a CRC comparison failing on the fourth CRC byte. -/
def streamError (c : Cmd) (s : State) : Option ErrKind :=
  match c with
  | .rxEnd => if s.mode = .idle then none else some .unexpectedEof
  | .rxByte b =>
    if s.mode = .rxCrc ∧ s.idx = 3#2 ∧ shiftIn s.rxCrc b ≠ s.crcState ^^^ 0xFFFFFFFF#32 then some .crcMismatch else none
  | .nop | .crcInit | .crcByte _ | .lenShift _ | .typeShift _ | .txStart | .txByte _ | .txEnd | .rxStart
  | .clrErr | .softReset => none

/-- The error a command word raises where no error is pending, by the order of R91's checks 2 to 6. -/
def errorOf (w : Word) (s : State) : Option ErrKind :=
  match decodeCmd w with
  | .error _ => some .illegalCmd
  | .ok c =>
    if legality c s.mode = .seq then some .seqError
    else (countError c s).orElse fun _ =>
      if s.free < spaceNeeded c.toInstr then some .outOverflow else streamError c s

/-- The instruction whose rule is performed: a WR_CMD of a legal word performs its command (R53). -/
def performed (i : Instr) : Instr :=
  match i with
  | .wrCmd w =>
    match decodeCmd w with
    | .ok c => c.toInstr
    | .error _ => i
  | .nop | .crcInit | .crcByte _ | .lenShift _ | .typeShift _ | .txStart | .txByte _ | .txEnd
  | .rxStart | .rxByte _ | .rxEnd | .clrErr | .softReset
  | .rdId | .rdCmd | .rdStatus | .rdErr | .rdErrCmd | .rdLen | .rdType | .rdTypeInfo | .rdCrcState
  | .rdCrcResult | .rdCount | .rdRxCrc | .rdOut | .rdRsvd _ | .wrIgnored _ _ => i

/-- The instruction is one of the sixteen bus reads (R50). -/
def isBusRead : Instr → Bool
  | .rdId | .rdCmd | .rdStatus | .rdErr | .rdErrCmd | .rdLen | .rdType | .rdTypeInfo | .rdCrcState
  | .rdCrcResult | .rdCount | .rdRxCrc | .rdOut | .rdRsvd _ => true
  | .nop | .crcInit | .crcByte _ | .lenShift _ | .typeShift _ | .txStart | .txByte _ | .txEnd
  | .rxStart | .rxByte _ | .rxEnd | .clrErr | .softReset | .wrCmd _ | .wrIgnored _ _ => false

end Sys2Proof.Machine
end

