-- ==== Sys2Proof/Certificates/Slice0/Obligations.lean ====
section
/-! DEFINITION. The statements for the provers. Each docstring names the rule of spec/ it formalises. A statement whose
conclusion is `exec i s = .next t` with `t` written as an update of `s` says what the instruction writes AND that every
other field, the FIFO's bytes, the parameters and the host's side among them, is unchanged. -/

open Sys2Proof Sys2Proof.Machine

/-! ### Encoding -/

/-- Decoding the form of a well-formed instruction gives it back, with every operand at every value. -/
def Obligations.DecodeEncodeRoundTrip : Prop :=
  ∀ i : Instr, i.wellFormed = true → decode (encode i) = .ok i

/-- Each form has one meaning: what it decodes to is well-formed and is encoded by that form and no other. -/
def Obligations.EncodeDecodeRoundTrip : Prop :=
  ∀ (f : Form) (i : Instr), decode f = .ok i → encode i = f ∧ i.wellFormed = true

/-- R46: a word is a row's command iff (w and mask) = match; the decoded command carries the word's operand; no two rows
match the same word. -/
def Obligations.DecoderAgreesWithTable : Prop :=
  (∀ row ∈ cmdTable, ∀ w : Word,
      (w &&& row.mask = row.pattern) ↔ ∃ c, decodeCmd w = .ok c ∧ c.mnemonic = row.mnemonic) ∧
  (∀ (w : Word) (c : Cmd), decodeCmd w = .ok c → encodeCmd c = w) ∧
  (∀ r ∈ cmdTable, ∀ q ∈ cmdTable, ∀ w : Word,
      w &&& r.mask = r.pattern → w &&& q.mask = q.pattern → r = q)

/-- R47's count: exactly 1288 words are legal. -/
def Obligations.LegalWordsNumber1288 : Prop :=
  ∃ ws : List Word, ws.Nodup ∧ ws.length = 1288 ∧ ∀ w, w ∈ ws ↔ ∃ c, decodeCmd w = .ok c

/-- R48: the three classes of illegal words, that no other word is illegal, and that executing one raises ILLEGAL_CMD. -/
def Obligations.IllegalWordsAreThreeClasses : Prop :=
  ∀ w : Word,
    ((∃ e, decodeCmd w = .error e) ↔
      (w.extractLsb' 24 8 ∉ ([0x00, 0x01, 0x02, 0x08, 0x09, 0x10, 0x11, 0x12, 0x20, 0x21, 0x22, 0xF0, 0xF1] : List Byte) ∨
       w.extractLsb' 8 16 ≠ 0#16 ∨
       (w.extractLsb' 0 8 ≠ 0#8 ∧
         w.extractLsb' 24 8 ∈ ([0x00, 0x01, 0x10, 0x12, 0x20, 0x22, 0xF0, 0xF1] : List Byte)))) ∧
    (∀ (e : IllegalWord) (s : State), decodeCmd w = .error e → s.errValid = false →
      exec (.wrCmd w) s = .next (errorState 1#4 w s))

/-- A few words of each command family written out from R46, and bus operations of R50 under the table keys dir<<6 | off
with write data 0, which are the model's numbering (log entry 10, DESIGN CHOICE). -/
def Obligations.SampleWordsDecode : Prop :=
  decodeTableWord 32 0x00000000 = some .nop ∧
  decodeTableWord 32 0x02000031 = some (.crcByte 0x31) ∧
  decodeTableWord 32 0x0800009A = some (.lenShift 0x9A) ∧
  decodeTableWord 32 0x09000074 = some (.typeShift 0x74) ∧
  decodeTableWord 32 0x12000000 = some .txEnd ∧
  decodeTableWord 32 0x210000AE = some (.rxByte 0xAE) ∧
  decodeTableWord 32 0x03000000 = none ∧
  decodeTableWord 8 0x30 = some .rdOut ∧
  decodeTableWord 8 0x3C = some (.rdRsvd 0x3C) ∧
  decodeTableWord 8 0x44 = some (.wrCmd 0) ∧
  decodeTableWord 8 0x7C = some (.wrIgnored 0x3C 0)

/-- R50: the bus operation of every (dir, off), that a 4-byte access at BASE + off has it, and that no other access has
one: not at a misaligned offset, not of another size, not outside BASE..BASE+0x3F. -/
def Obligations.BusAccessesDecodeByTable : Prop :=
  decodeRead 0x00 = .ok .rdId ∧ decodeRead 0x04 = .ok .rdCmd ∧ decodeRead 0x08 = .ok .rdStatus ∧
  decodeRead 0x0C = .ok .rdErr ∧ decodeRead 0x10 = .ok .rdErrCmd ∧ decodeRead 0x14 = .ok .rdLen ∧
  decodeRead 0x18 = .ok .rdType ∧ decodeRead 0x1C = .ok .rdTypeInfo ∧ decodeRead 0x20 = .ok .rdCrcState ∧
  decodeRead 0x24 = .ok .rdCrcResult ∧ decodeRead 0x28 = .ok .rdCount ∧ decodeRead 0x2C = .ok .rdRxCrc ∧
  decodeRead 0x30 = .ok .rdOut ∧ decodeRead 0x34 = .ok (.rdRsvd 0x34) ∧ decodeRead 0x38 = .ok (.rdRsvd 0x38) ∧
  decodeRead 0x3C = .ok (.rdRsvd 0x3C) ∧
  (∀ data : Word, decodeWrite 0x04 data = .ok (.wrCmd data)) ∧
  (∀ (off : BitVec 6) (data : Word), off.toNat % 4 = 0 → off ≠ 0x04 →
      decodeWrite off data = .ok (.wrIgnored off data)) ∧
  (∀ (off : BitVec 6) (data : Word), off.toNat % 4 ≠ 0 →
      (∃ e, decodeRead off = .error e) ∧ ∃ e, decodeWrite off data = .error e) ∧
  (∀ (c : Config) (addr size : Nat) (data : Word), size ≠ 4 →
      (∃ e, decodeAccess c (.memRead addr size) = .error e) ∧
      ∃ e, decodeAccess c (.memWrite addr size data) = .error e) ∧
  (∀ (c : Config) (addr : Nat) (data : Word), addr < c.base ∨ c.base + 64 ≤ addr →
      (∃ e, decodeAccess c (.memRead addr 4) = .error e) ∧
      ∃ e, decodeAccess c (.memWrite addr 4 data) = .error e) ∧
  (∀ (c : Config) (off : BitVec 6) (data : Word),
      decodeAccess c (.memRead (c.base + off.toNat) 4) = decodeRead off ∧
      decodeAccess c (.memWrite (c.base + off.toNat) 4 data) = decodeWrite off data)

/-! ### Steps and runs -/

/-- R8, R53: a step performs the host's next access, and only moves past that access around the instruction. -/
def Obligations.StepPerformsNextAccess : Prop :=
  ∀ (s : State) (a : Access) (rest : List Access) (i : Instr),
    s.legal = true → s.pending = a :: rest → decodeAccess s.cfg a = .ok i →
      step s = exec i { s with pending := rest }

/-- R8, R53: a step runs the instruction whose access the host performs next; a command's access is the write of its word
to CMD. -/
def Obligations.StepRunsEncodedInstruction : Prop :=
  ∀ (s : State) (i : Instr) (rest : List Access),
    s.legal = true → i.wellFormed = true → s.pending = accessOf s.cfg i :: rest →
      step s = exec i { s with pending := rest }

/-- R88: an access that is not a 32-bit access at a 4-aligned offset within the window is refused. -/
def Obligations.AccessOutsideInterfaceIsRefused : Prop :=
  ∀ (s : State) (addr size : Nat) (data : Word) (rest : List Access),
    s.legal = true →
    (size ≠ 4 ∨ addr < s.cfg.base ∨ s.cfg.base + 64 ≤ addr ∨ (addr - s.cfg.base) % 4 ≠ 0) →
    (s.pending = .memRead addr size :: rest ∨ s.pending = .memWrite addr size data :: rest) →
      ∃ why, step s = .refused (.badAccess why)

/-- R38: every 32-bit aligned access within the window is performed, from every legal state. -/
def Obligations.AccessInWindowIsPerformed : Prop :=
  ∀ (s : State) (off : Nat) (data : Word) (rest : List Access),
    s.legal = true → off < 64 → off % 4 = 0 →
    (s.pending = .memRead (s.cfg.base + off) 4 :: rest ∨ s.pending = .memWrite (s.cfg.base + off) 4 data :: rest) →
      ∃ t, step s = .next t ∧ t.pending = rest

/-- U8, U11 of 93_implementation_defined.md and R108: an illegal state has no step, and neither has an empty host
sequence (the model's way to say that the run is over: log entries 2 and 5). -/
def Obligations.NoStepOutsideARun : Prop :=
  (∀ s : State, s.legal = false → step s = .refused .illegalState) ∧
  (∀ s : State, s.legal = true → s.pending = [] → step s = .refused .runOver)

/-- R108: from a state with the invariant, running the host's sequence access by access is running its instructions in
order, and leaves the accesses after it. The access list is the model's own (log entry 2, DESIGN CHOICE). -/
def Obligations.RunPerformsHostSequence : Prop :=
  ∀ (is : List Instr) (s : State) (rest : List Access),
    BlockInv s → (∀ i ∈ is, i.wellFormed = true) → s.pending = is.map (accessOf s.cfg) ++ rest →
      Host.Core.run Sys2Proof.core is.length s = runAll is { s with pending := rest }

/-! ### Reset and invariants -/

/-- R30: the value of every element after reset, for every OUT_DEPTH and BASE, what the combinational registers then read
as, and that SOFT_RESET sets the same values from any state. -/
def Obligations.ResetSetsEveryElement : Prop :=
  (∀ c : Config,
    let r := State.resetWith c
    r.mode = .idle ∧ r.idx = 0 ∧ r.errValid = false ∧ r.errCode = 0 ∧ r.errCmd = 0x00000000 ∧ r.doneOk = false ∧
    r.len = 0x00000000 ∧ r.type = 0x00000000 ∧ r.crcState = 0xFFFFFFFF ∧ r.count = 0x00000000 ∧
    r.rxCrc = 0x00000000 ∧ r.fifo = [] ∧ r.outLevel = 0 ∧
    statusWord r = BitVec.ofNat 32 c.outDepth <<< 16 ∧ errWord r = 0 ∧ typeInfo r.type = 0x000000E0 ∧
    crcResult r = 0x00000000) ∧
  (∀ s : State, exec .softReset s =
    .next { State.resetWith s.cfg with pending := s.pending, reads := s.reads })

/-- The reset state has the invariant, for every OUT_DEPTH and BASE of R5; `State.reset` is the one with the parameters of
log entry 1, the model's choice. -/
def Obligations.ResetHasInvariant : Prop :=
  (∀ c : Config, 8 ≤ c.outDepth → c.outDepth ≤ 255 → c.base % 64 = 0 → BlockInv (State.resetWith c)) ∧
  State.reset = State.resetWith { outDepth := 16, base := 0 }

/-- R32: every step keeps the invariants (with the one fact that R32 leaves unsaid, COUNT = 0 before the data field). -/
def Obligations.StepKeepsInvariant : Prop :=
  ∀ s t : State, BlockInv s → step s = .next t → BlockInv t

/-- R55, R93: while an error is pending the block is in IDLE with DONE_OK and IDX 0. Every step from a state with the
invariant keeps it. -/
def Obligations.StepKeepsErrorIdle : Prop :=
  ∀ s t : State, BlockInv s → (s.errValid = true → s.mode = .idle ∧ s.idx = 0 ∧ s.doneOk = false) → step s = .next t →
    (t.errValid = true → t.mode = .idle ∧ t.idx = 0 ∧ t.doneOk = false)

/-! ### Control commands and errors -/

/-- R53: WR_CMD of a legal word is its command; of an illegal word, ILLEGAL_CMD, or nothing while an error is pending. It
completes from every state. -/
def Obligations.WrCmdDispatches : Prop :=
  ∀ (w : Word) (s : State),
    (∀ c, decodeCmd w = .ok c → ∃ t, exec c.toInstr s = .next t ∧ exec (.wrCmd w) s = .next t) ∧
    (∀ c, decodeCmd w = .ok c → s.errValid = true → c ∉ ([.nop, .clrErr, .softReset] : List Cmd) →
      exec (.wrCmd w) s = .next s) ∧
    (∀ e, decodeCmd w = .error e → s.errValid = true → exec (.wrCmd w) s = .next s) ∧
    (∀ e, decodeCmd w = .error e → s.errValid = false → exec (.wrCmd w) s = .next (errorState 1#4 w s))

/-- R54: while an error is pending every command word but NOP, CLR_ERR and SOFT_RESET changes no state at all, and a bus
read is performed. -/
def Obligations.PendingErrorDropsCommands : Prop :=
  ∀ s : State, s.errValid = true →
    (∀ w : Word, w ≠ 0x00000000 → w ≠ 0xF0000000 → w ≠ 0xF1000000 → exec (.wrCmd w) s = .next s) ∧
    (∀ c : Cmd, c ∉ ([.nop, .clrErr, .softReset] : List Cmd) → exec c.toInstr s = .next s) ∧
    (∀ i : Instr, isBusRead i = true → ∃ v t, exec i s = .next t ∧ t.reads = s.reads ++ [v])

/-- R55: the error commit, and that the first error wins. -/
def Obligations.ErrorCommitRule : Prop :=
  ∀ (e : ErrKind) (w : Word) (s : State),
    (s.errValid = false →
      raise e w s =
        { s with errValid := true, errCode := e.code, errCmd := w, mode := .idle, idx := 0, doneOk := false }) ∧
    (s.errValid = true → raise e w s = { s with mode := .idle, idx := 0, doneOk := false })

/-- R56: NOP changes nothing in any state, error pending or not. -/
def Obligations.NopRule : Prop :=
  (∀ s : State, exec .nop s = .next s) ∧ decodeCmd 0x00000000 = .ok .nop ∧
  (∀ w : Word, w.extractLsb' 24 8 = 0x00#8 → w ≠ 0x00000000 → ∃ e, decodeCmd w = .error e)

/-- R57: CLR_ERR clears the error record and nothing else, in any state. -/
def Obligations.ClrErrRule : Prop :=
  (∀ s : State, exec .clrErr s = .next { s with errValid := false, errCode := 0, errCmd := 0x00000000 }) ∧
  decodeCmd 0xF0000000 = .ok .clrErr

/-- R58: SOFT_RESET sets every element of R9 to its reset value, in any state. -/
def Obligations.SoftResetRule : Prop :=
  (∀ s : State, exec .softReset s =
    .next { s with
      mode := .idle, idx := 0, errValid := false, errCode := 0, errCmd := 0, doneOk := false, len := 0, type := 0,
      count := 0, rxCrc := 0, crcState := 0xFFFFFFFF, fifo := [] }) ∧
  decodeCmd 0xF1000000 = .ok .softReset

/-- R89's matrix: what each command does in each mode where no error is pending. In an "ok" cell it raises no SEQ_ERROR. -/
def Obligations.ModeLegalityMatrix : Prop :=
  ∀ (c : Cmd) (s : State), s.errValid = false →
    (legality c s.mode = .seq → exec c.toInstr s = .next (errorState 2#4 (encodeCmd c) s)) ∧
    (legality c s.mode = .eof → exec c.toInstr s = .next (errorState 6#4 (encodeCmd c) s)) ∧
    (legality c s.mode = .nop → exec c.toInstr s = .next s) ∧
    (legality c s.mode = .ok → ∃ t, exec c.toInstr s = .next t ∧ (t.errValid = true → t.errCode ≠ 2#4))

/-- R91: one command raises at most one error, the first in the order of its list (`errorOf`); one that is dropped raises
none. -/
def Obligations.ErrorPriority : Prop :=
  ∀ (w : Word) (s : State),
    (s.errValid = true → w ≠ 0x00000000 → w ≠ 0xF0000000 → w ≠ 0xF1000000 → exec (.wrCmd w) s = .next s) ∧
    (s.errValid = false → ∃ t, exec (.wrCmd w) s = .next t ∧
      match errorOf w s with
      | none => t.errValid = false
      | some e => t.errValid = true ∧ t.errCode = e.code ∧ t.errCmd = w)

/-- R92: an error leaves every element but the error record, MODE, IDX and DONE_OK as it was; CRC_MISMATCH also keeps the
shift of the byte into RX_CRC. -/
def Obligations.ErrorsArePrecise : Prop :=
  ∀ (i : Instr) (s t : State), s.errValid = false → exec i s = .next t → t.errValid = true →
    t = { s with
      errValid := true, errCode := t.errCode, errCmd := t.errCmd, mode := .idle, idx := 0, doneOk := false,
      rxCrc := if t.errCode = 7#4 then s.rxCrc.extractLsb' 0 24 ++ t.errCmd.extractLsb' 0 8 else s.rxCrc }

/-- R93: a pending error stays as it was recorded until CLR_ERR or SOFT_RESET, by its own word or constructor. -/
def Obligations.FirstErrorIsKept : Prop :=
  ∀ (i : Instr) (s t : State), s.errValid = true → exec i s = .next t →
    (t.errValid = true ∧ t.errCode = s.errCode ∧ t.errCmd = s.errCmd ∧ t.mode = s.mode) ∨
    performed i = .clrErr ∨ performed i = .softReset

/-! ### CRC, type and length commands -/

/-- R69: CRC_INIT. -/
def Obligations.CrcInitRule : Prop :=
  decodeCmd 0x01000000 = .ok .crcInit ∧ (0xFFFFFFFF : Word) ^^^ 0xFFFFFFFF = 0x00000000 ∧
  ∀ s : State,
    (s.errValid = true → exec .crcInit s = .next s) ∧
    (s.errValid = false → s.mode ≠ .idle → exec .crcInit s = .next (errorState 2#4 0x01000000 s)) ∧
    (s.errValid = false → s.mode = .idle → exec .crcInit s = .next { s with crcState := 0xFFFFFFFF })

/-- R70: CRC_BYTE. -/
def Obligations.CrcByteRule : Prop :=
  crcStep 0xFFFFFFFF 0x00 = 0x2DFD1072 ∧ crcStep 0 0 = 0 ∧ crcStep 0xFFFFFFFF 0x31 = 0x7C231048 ∧
  ∀ (b : Byte) (s : State),
    decodeCmd (0x02000000 ||| b.setWidth 32) = .ok (.crcByte b) ∧
    (s.errValid = true → exec (.crcByte b) s = .next s) ∧
    (s.errValid = false → s.mode ≠ .idle →
      exec (.crcByte b) s = .next (errorState 2#4 (0x02000000 ||| b.setWidth 32) s)) ∧
    (s.errValid = false → s.mode = .idle →
      exec (.crcByte b) s = .next { s with crcState := crcStep s.crcState b })

/-- R64: TYPE_SHIFT. -/
def Obligations.TypeShiftRule : Prop :=
  ∀ (b : Byte) (s : State),
    decodeCmd (0x09000000 ||| b.setWidth 32) = .ok (.typeShift b) ∧
    (s.errValid = true → exec (.typeShift b) s = .next s) ∧
    (s.errValid = false → s.mode ≠ .idle →
      exec (.typeShift b) s = .next (errorState 2#4 (0x09000000 ||| b.setWidth 32) s)) ∧
    (s.errValid = false → s.mode = .idle →
      exec (.typeShift b) s = .next { s with type := (s.type.extractLsb' 0 24 ++ b : BitVec 32) })

/-- R73: LEN_SHIFT. -/
def Obligations.LenShiftRule : Prop :=
  ∀ (b : Byte) (s : State),
    decodeCmd (0x08000000 ||| b.setWidth 32) = .ok (.lenShift b) ∧
    (s.errValid = true → exec (.lenShift b) s = .next s) ∧
    (s.errValid = false → s.mode ≠ .idle →
      exec (.lenShift b) s = .next (errorState 2#4 (0x08000000 ||| b.setWidth 32) s)) ∧
    (s.errValid = false → s.mode = .idle →
      exec (.lenShift b) s = .next { s with len := (s.len.extractLsb' 0 24 ++ b : BitVec 32) })

/-- R52: the pseudo-instructions LEN32 and TYPE4 load their whole field, from any earlier value, and nothing else. -/
def Obligations.LoadsReplaceWholeField : Prop :=
  ∀ (v : Word) (s : State), s.mode = .idle → s.errValid = false →
    runAll (len32 v) s = .next { s with len := v } ∧ runAll (type4 v) s = .next { s with type := v }

/-- R71: CRC_INIT and then CRC_BYTE over a byte sequence leave its CRC in CRC_RESULT; after reset CRC_INIT is optional. -/
def Obligations.StandaloneCrcOfBytes : Prop :=
  ∀ (bytes : List Byte) (s : State), s.mode = .idle → s.errValid = false →
    runAll (.crcInit :: crcBytes bytes) s = .next { s with crcState := crcFold 0xFFFFFFFF bytes } ∧
    (s.crcState = 0xFFFFFFFF → runAll (crcBytes bytes) s = .next { s with crcState := crcFold 0xFFFFFFFF bytes }) ∧
    crcResult { s with crcState := crcFold 0xFFFFFFFF bytes } = crc32 bytes

/-! ### The CRC function -/

/-- R68 (b) and (c): the bit-serial step is the byte table's step, depends on c xor b alone, and is linear over xor. -/
def Obligations.CrcStepLaws : Prop :=
  (∀ (c : Word) (b : Byte),
    crcStep c b = (c >>> 8) ^^^ crcStep 0 ((c ^^^ b.setWidth 32).extractLsb' 0 8)) ∧
  (∀ (c : Word) (b : Byte), crcStep c b = crcStep (c ^^^ b.setWidth 32) 0) ∧
  (∀ c d : Word, crcStep (c ^^^ d) 0 = crcStep c 0 ^^^ crcStep d 0)

/-- R68 (f): changing any single bit of a byte sequence changes its CRC; so does changing any single byte. -/
def Obligations.CrcDetectsChangedByte : Prop :=
  (∀ (s t : List Byte) (b d : Byte), b ≠ d → crc32 (s ++ b :: t) ≠ crc32 (s ++ d :: t)) ∧
  (∀ (s t : List Byte) (b : Byte) (k : Nat), k < 8 →
    crc32 (s ++ b :: t) ≠ crc32 (s ++ (b ^^^ BitVec.twoPow 8 k) :: t))

/-! ### Framer -/

/-- R74: TX_START. -/
def Obligations.TxStartRule : Prop :=
  decodeCmd 0x10000000 = .ok .txStart ∧
  ∀ s : State,
    (s.errValid = true → exec .txStart s = .next s) ∧
    (s.errValid = false → s.mode ≠ .idle → exec .txStart s = .next (errorState 2#4 0x10000000 s)) ∧
    (s.errValid = false → s.mode = .idle → s.free < 8 → exec .txStart s = .next (errorState 3#4 0x10000000 s)) ∧
    (s.errValid = false → s.mode = .idle → 8 ≤ s.free →
      exec .txStart s = .next { s with
        fifo := s.fifo ++
          [s.len.extractLsb' 24 8, s.len.extractLsb' 16 8, s.len.extractLsb' 8 8, s.len.extractLsb' 0 8,
           s.type.extractLsb' 24 8, s.type.extractLsb' 16 8, s.type.extractLsb' 8 8, s.type.extractLsb' 0 8]
        crcState := crcFold 0xFFFFFFFF
          [s.type.extractLsb' 24 8, s.type.extractLsb' 16 8, s.type.extractLsb' 8 8, s.type.extractLsb' 0 8]
        count := 0
        doneOk := false
        mode := .txData })

/-- R75: TX_BYTE. -/
def Obligations.TxByteRule : Prop :=
  ∀ (b : Byte) (s : State),
    decodeCmd (0x11000000 ||| b.setWidth 32) = .ok (.txByte b) ∧
    (s.errValid = true → exec (.txByte b) s = .next s) ∧
    (s.errValid = false → s.mode ≠ .txData →
      exec (.txByte b) s = .next (errorState 2#4 (0x11000000 ||| b.setWidth 32) s)) ∧
    (s.errValid = false → s.mode = .txData → s.count = s.len →
      exec (.txByte b) s = .next (errorState 4#4 (0x11000000 ||| b.setWidth 32) s)) ∧
    (s.errValid = false → s.mode = .txData → s.count ≠ s.len → s.free < 1 →
      exec (.txByte b) s = .next (errorState 3#4 (0x11000000 ||| b.setWidth 32) s)) ∧
    (s.errValid = false → s.mode = .txData → s.count ≠ s.len → 1 ≤ s.free →
      exec (.txByte b) s = .next { s with
        fifo := s.fifo ++ [b], crcState := crcStep s.crcState b, count := s.count + 1 }) ∧
    (s.legal = true → s.mode = .txData → s.count ≠ s.len → (s.count + 1).toNat = s.count.toNat + 1)

/-- R76: TX_END. -/
def Obligations.TxEndRule : Prop :=
  decodeCmd 0x12000000 = .ok .txEnd ∧
  ∀ s : State,
    (s.errValid = true → exec .txEnd s = .next s) ∧
    (s.errValid = false → s.mode ≠ .txData → exec .txEnd s = .next (errorState 2#4 0x12000000 s)) ∧
    (s.errValid = false → s.mode = .txData → s.count ≠ s.len →
      exec .txEnd s = .next (errorState 5#4 0x12000000 s)) ∧
    (s.errValid = false → s.mode = .txData → s.count = s.len → s.free < 4 →
      exec .txEnd s = .next (errorState 3#4 0x12000000 s)) ∧
    (s.errValid = false → s.mode = .txData → s.count = s.len → 4 ≤ s.free →
      let r := s.crcState ^^^ 0xFFFFFFFF
      exec .txEnd s = .next { s with
        fifo := s.fifo ++ [r.extractLsb' 24 8, r.extractLsb' 16 8, r.extractLsb' 8 8, r.extractLsb' 0 8]
        mode := .idle
        doneOk := true })

/-- R78: FRAME, with OUT reads interleaved at will, emits chunk_serialize(t, d) when the FIFO never lacks the space R74 to
R76 require. The bytes the host has popped and those still in the FIFO, in order, are those that were in it before and
then the chunk. -/
def Obligations.FrameEmitsSerialization : Prop :=
  ∀ (t : Word) (d : List Byte) (is : List Instr) (s : State),
    s.mode = .idle → s.errValid = false → d.length < 2 ^ 32 →
    is.filter (fun i => i != .rdOut) = frame t d → spaceSuffices is s = true →
      ∃ (e : State) (vs : List Word),
        runAll is s = .next e ∧ e.errValid = false ∧ e.mode = .idle ∧ e.doneOk = true ∧
        e.count = BitVec.ofNat 32 d.length ∧ crcResult e = crc32 (be32 t ++ d) ∧
        e.reads = s.reads ++ vs ∧ outBytes vs ++ e.fifo = s.fifo ++ chunkSerialize t d

/-- R100, R102: the chunks of an image, framed in held order with every byte popped as it is pushed and STATUS read after
each frame, reach the host as the image's serialization, whatever OUT_DEPTH is; every frame's STATUS is as R100 requires,
and the run is that of `imageInstrs`. With an error pending the first frame's STATUS is not, and the host stops at it and
answers with it. Two things are the model's choice (log entry 15, DESIGN CHOICE): the draining, among those R102 allows,
and that the host stops and answers with that STATUS, since R100 does not say what it does then. -/
def Obligations.SerializedImageReachesHost : Prop :=
  (∀ (cs : List (Word × List Byte)) (s : State),
    s.mode = .idle → s.errValid = false → s.fifo = [] → 8 ≤ s.cfg.outDepth → (∀ c ∈ cs, c.2.length < 2 ^ 32) →
      ∃ e : State,
        serializeImage cs s = .ok (imageSerialize cs, e) ∧ runAll (imageInstrs cs) s = .next e ∧
        e.mode = .idle ∧ e.errValid = false ∧ e.fifo = [] ∧ (cs ≠ [] → e.doneOk = true)) ∧
  (∀ (cs : List (Word × List Byte)) (s : State), cs ≠ [] → s.errValid = true →
    ∃ status : Word, serializeImage cs s = .error status ∧ status.getLsbD 6 = true)

/-! ### Checker -/

/-- R80: RX_START. -/
def Obligations.RxStartRule : Prop :=
  decodeCmd 0x20000000 = .ok .rxStart ∧ typeInfo 0 = 0x000000E0 ∧
  ∀ s : State,
    (s.errValid = true → exec .rxStart s = .next s) ∧
    (s.errValid = false → s.mode ≠ .idle → exec .rxStart s = .next (errorState 2#4 0x20000000 s)) ∧
    (s.errValid = false → s.mode = .idle →
      exec .rxStart s = .next { s with
        len := 0, type := 0, rxCrc := 0, count := 0, crcState := 0xFFFFFFFF, idx := 0, doneOk := false,
        mode := .rxLen })

/-- R81: RX_BYTE, in every mode. -/
def Obligations.RxByteRule : Prop :=
  ∀ (b : Byte) (s : State),
    let w : Word := 0x21000000 ||| b.setWidth 32
    let len' : Word := s.len.extractLsb' 0 24 ++ b
    let type' : Word := s.type.extractLsb' 0 24 ++ b
    let rxCrc' : Word := s.rxCrc.extractLsb' 0 24 ++ b
    decodeCmd w = .ok (.rxByte b) ∧
    (s.errValid = true → exec (.rxByte b) s = .next s) ∧
    (s.errValid = false →
      (s.mode = .idle ∨ s.mode = .txData → exec (.rxByte b) s = .next (errorState 2#4 w s)) ∧
      (s.mode = .rxLen → s.idx = 3 →
        exec (.rxByte b) s = .next { s with len := len', idx := 0, mode := .rxType }) ∧
      (s.mode = .rxLen → s.idx ≠ 3 →
        exec (.rxByte b) s = .next { s with len := len', idx := s.idx + 1 }) ∧
      (s.mode = .rxType → s.idx = 3 → s.len = 0 →
        exec (.rxByte b) s = .next { s with
          type := type', crcState := crcStep s.crcState b, idx := 0, mode := .rxCrc }) ∧
      (s.mode = .rxType → s.idx = 3 → s.len ≠ 0 →
        exec (.rxByte b) s = .next { s with
          type := type', crcState := crcStep s.crcState b, idx := 0, mode := .rxData }) ∧
      (s.mode = .rxType → s.idx ≠ 3 →
        exec (.rxByte b) s = .next { s with
          type := type', crcState := crcStep s.crcState b, idx := s.idx + 1 }) ∧
      (s.mode = .rxData → s.count + 1 = s.len →
        exec (.rxByte b) s = .next { s with
          crcState := crcStep s.crcState b, count := s.count + 1, mode := .rxCrc }) ∧
      (s.mode = .rxData → s.count + 1 ≠ s.len →
        exec (.rxByte b) s = .next { s with crcState := crcStep s.crcState b, count := s.count + 1 }) ∧
      (s.mode = .rxCrc → s.idx ≠ 3 →
        exec (.rxByte b) s = .next { s with rxCrc := rxCrc', idx := s.idx + 1 }) ∧
      (s.mode = .rxCrc → s.idx = 3 → rxCrc' = s.crcState ^^^ 0xFFFFFFFF →
        exec (.rxByte b) s = .next { s with rxCrc := rxCrc', idx := 0, mode := .idle, doneOk := true }) ∧
      (s.mode = .rxCrc → s.idx = 3 → rxCrc' ≠ s.crcState ^^^ 0xFFFFFFFF →
        exec (.rxByte b) s = .next (errorState 7#4 w { s with rxCrc := rxCrc' })))

/-- R82: RX_END. -/
def Obligations.RxEndRule : Prop :=
  decodeCmd 0x22000000 = .ok .rxEnd ∧
  ∀ s : State,
    (s.errValid = true → exec .rxEnd s = .next s) ∧
    (s.errValid = false → s.mode = .idle → exec .rxEnd s = .next s) ∧
    (s.errValid = false → s.mode = .txData → exec .rxEnd s = .next (errorState 2#4 0x22000000 s)) ∧
    (s.errValid = false → s.mode = .rxLen ∨ s.mode = .rxType ∨ s.mode = .rxData ∨ s.mode = .rxCrc →
      exec .rxEnd s = .next (errorState 6#4 0x22000000 s))

/-- R72, R79: parsing a serialized chunk gives its length, type, data and CRC, and leaves what follows unread. -/
def Obligations.ParseOfSerialization : Prop :=
  ∀ (t : Word) (d rest : List Byte), d.length < 2 ^ 32 →
    chunkParse (chunkSerialize t d ++ rest) =
      .ok { len := BitVec.ofNat 32 d.length, type := t, data := d, crc := crc32 (be32 t ++ d), rest := rest }

/-- R83: CHECK of a byte sequence no longer than the chunk it begins gives chunk_parse's verdict: (a) a whole chunk with
its CRC, (b) a whole chunk with another CRC, (c) a shorter sequence. What the framer emits (R78) gives (a). -/
def Obligations.CheckerAgreesWithParse : Prop :=
  ∀ (p : List Byte) (s : State), s.mode = .idle → s.errValid = false →
    (∀ c, chunkParse p = .ok c → c.rest = [] →
      runAll (check p) s = .next { s with
        mode := .idle, idx := 0, doneOk := true, len := c.len, type := c.type, count := c.len, rxCrc := c.crc,
        crcState := crcFold 0xFFFFFFFF (be32 c.type ++ c.data) }) ∧
    (∀ x, 8 ≤ p.length → p.length = 12 + declaredLength p → chunkParse p = .error .crcMismatch → p.getLast? = some x →
      ∃ e, runAll (check p) s = .next e ∧ e.errValid = true ∧ e.errCode = 7 ∧
        e.errCmd = 0x21000000 ||| x.setWidth 32 ∧ e.mode = .idle ∧ e.doneOk = false) ∧
    (p.length < 8 ∨ p.length < 12 + declaredLength p →
      chunkParse p = .error .unexpectedEof ∧
      ∃ e, runAll (check p) s = .next e ∧ e.errValid = true ∧ e.errCode = 6 ∧ e.errCmd = 0x22000000 ∧
        e.mode = .idle ∧ e.doneOk = false) ∧
    (∀ (t : Word) (d : List Byte), d.length < 2 ^ 32 →
      runAll (check (chunkSerialize t d)) s = .next { s with
        mode := .idle, idx := 0, doneOk := true, len := BitVec.ofNat 32 d.length, type := t,
        count := BitVec.ofNat 32 d.length, rxCrc := crc32 (be32 t ++ d),
        crcState := crcFold 0xFFFFFFFF (be32 t ++ d) })

/-- 95_test_vectors.md section 4: changing one type, data or CRC byte of a serialized chunk makes CHECK end in
CRC_MISMATCH. -/
def Obligations.CheckerCatchesChangedByte : Prop :=
  ∀ (t : Word) (d : List Byte) (j : Nat) (b : Byte) (s : State),
    s.mode = .idle → s.errValid = false → d.length < 2 ^ 32 → 4 ≤ j → j < 12 + d.length →
    (chunkSerialize t d)[j]? ≠ some b →
      ∃ e, runAll (check ((chunkSerialize t d).set j b)) s = .next e ∧ e.errValid = true ∧ e.errCode = 7

/-- R101: parsing the serialization of an image finds its chunks in order, each spanning its own bytes. Polling STATUS
after every byte is the model's choice among what R101 allows (log entry 15, DESIGN CHOICE). -/
def Obligations.ImageParseFindsChunks : Prop :=
  ∀ (cs : List (Word × List Byte)) (s : State),
    s.mode = .idle → s.errValid = false → (∀ c ∈ cs, c.2.length < 2 ^ 32) →
      parseImage (imageSerialize cs) s = some (.ok (cs.map fun c =>
        { len := BitVec.ofNat 32 c.2.length, type := c.1, crc := crc32 (be32 c.1 ++ c.2),
          bytes := chunkSerialize c.1 c.2 }))

/-! ### Register reads and other bus operations -/

/-- R84: each plain read returns its register's value and changes no state. -/
def Obligations.PlainReadsReturnRegisters : Prop :=
  ∀ s : State,
    exec .rdId s = .next { s with reads := s.reads ++ [0x504E4701] } ∧
    exec .rdStatus s = .next { s with reads := s.reads ++ [statusWord s] } ∧
    exec .rdErr s = .next { s with reads := s.reads ++ [errWord s] } ∧
    exec .rdErrCmd s = .next { s with reads := s.reads ++ [s.errCmd] } ∧
    exec .rdLen s = .next { s with reads := s.reads ++ [s.len] } ∧
    exec .rdType s = .next { s with reads := s.reads ++ [s.type] } ∧
    exec .rdTypeInfo s = .next { s with reads := s.reads ++ [typeInfo s.type] } ∧
    exec .rdCrcState s = .next { s with reads := s.reads ++ [s.crcState] } ∧
    exec .rdCrcResult s = .next { s with reads := s.reads ++ [s.crcState ^^^ 0xFFFFFFFF] } ∧
    exec .rdCount s = .next { s with reads := s.reads ++ [s.count] } ∧
    exec .rdRxCrc s = .next { s with reads := s.reads ++ [s.rxCrc] }

/-- R15: the fields of STATUS, in a state whose FIFO and depth are within R5's and R27's bounds, with MODE's value in each
mode by the table of R16. -/
def Obligations.StatusFields : Prop :=
  ∀ s : State, s.outLevel ≤ s.cfg.outDepth → s.cfg.outDepth ≤ 255 →
    (statusWord s).extractLsb' 0 3 = s.mode.code ∧
    (s.mode = .idle → (statusWord s).extractLsb' 0 3 = 0#3) ∧
    (s.mode = .txData → (statusWord s).extractLsb' 0 3 = 1#3) ∧
    (s.mode = .rxLen → (statusWord s).extractLsb' 0 3 = 2#3) ∧
    (s.mode = .rxType → (statusWord s).extractLsb' 0 3 = 3#3) ∧
    (s.mode = .rxData → (statusWord s).extractLsb' 0 3 = 4#3) ∧
    (s.mode = .rxCrc → (statusWord s).extractLsb' 0 3 = 5#3) ∧
    (statusWord s).getLsbD 3 = false ∧
    (statusWord s).extractLsb' 4 2 = s.idx ∧ (statusWord s).getLsbD 6 = s.errValid ∧
    (statusWord s).getLsbD 7 = s.doneOk ∧ ((statusWord s).extractLsb' 8 8).toNat = s.fifo.length ∧
    ((statusWord s).extractLsb' 16 8).toNat = s.cfg.outDepth ∧ (statusWord s).extractLsb' 24 8 = 0

/-- R18's layout of ERR. -/
def Obligations.ErrFields : Prop :=
  ∀ s : State,
    (errWord s).getLsbD 31 = s.errValid ∧ (errWord s).extractLsb' 0 4 = s.errCode ∧ (errWord s).extractLsb' 4 27 = 0

/-- R22 with R60 to R62: the bits of TYPE_INFO, on any four bytes. -/
def Obligations.TypeInfoFields : Prop :=
  ∀ t : Word,
    let letter : Byte → Prop := fun x =>
      (0x41 ≤ x.toNat ∧ x.toNat ≤ 0x5A) ∨ (0x61 ≤ x.toNat ∧ x.toNat ≤ 0x7A)
    ((typeInfo t).getLsbD 0 = true ↔ letter (t.extractLsb' 24 8)) ∧
    ((typeInfo t).getLsbD 1 = true ↔ letter (t.extractLsb' 16 8)) ∧
    ((typeInfo t).getLsbD 2 = true ↔ letter (t.extractLsb' 8 8)) ∧
    ((typeInfo t).getLsbD 3 = true ↔ letter (t.extractLsb' 0 8)) ∧
    ((typeInfo t).getLsbD 4 = true ↔
      letter (t.extractLsb' 24 8) ∧ letter (t.extractLsb' 16 8) ∧ letter (t.extractLsb' 8 8) ∧
        letter (t.extractLsb' 0 8)) ∧
    (typeInfo t).getLsbD 5 = !t.getLsbD 29 ∧ (typeInfo t).getLsbD 6 = !t.getLsbD 21 ∧
    (typeInfo t).getLsbD 7 = !t.getLsbD 13 ∧ (typeInfo t).getLsbD 8 = t.getLsbD 5 ∧
    (typeInfo t).getLsbD 9 = ((typeInfo t).getLsbD 4 && (typeInfo t).getLsbD 7) ∧
    (typeInfo t).extractLsb' 10 22 = 0

/-- R85: RD_OUT pops the head, or returns 0 from an empty FIFO; in every mode and while an error is pending. -/
def Obligations.OutReadRule : Prop :=
  ∀ s : State,
    (s.fifo = [] → exec .rdOut s = .next { s with reads := s.reads ++ [0x00000000] }) ∧
    (∀ b rest, s.fifo = b :: rest →
      exec .rdOut s = .next { s with fifo := rest, reads := s.reads ++ [0x00000100 ||| b.setWidth 32] })

/-- R85 (b): successive OUT reads return the FIFO's bytes in push order, then 0. -/
def Obligations.DrainReturnsPushOrder : Prop :=
  ∀ (k : Nat) (s : State),
    runAll (drain k) s = .next { s with
      fifo := s.fifo.drop k
      reads := s.reads ++ (s.fifo.take k).map (fun b => 0x00000100 ||| b.setWidth 32)
        ++ List.replicate (k - s.fifo.length) 0x00000000 }

/-- R86, R87: RD_CMD and RD_RSVD return 0 and change no state; a write to any offset other than CMD's is WR_IGNORED
and changes no state. -/
def Obligations.InertAccesses : Prop :=
  ∀ s : State,
    exec .rdCmd s = .next { s with reads := s.reads ++ [0x00000000] } ∧
    (∀ off : BitVec 6, exec (.rdRsvd off) s = .next { s with reads := s.reads ++ [0x00000000] }) ∧
    (∀ (off : BitVec 6) (data : Word), exec (.wrIgnored off data) s = .next s) ∧
    (∀ (off : BitVec 6) (data : Word), off.toNat % 4 = 0 → off ≠ 0x04 →
      decodeWrite off data = .ok (.wrIgnored off data))

/-! ### Whole-machine rules -/

/-- R27: only TX_START, TX_BYTE and TX_END push, only a read of OUT pops, only SOFT_RESET empties. -/
def Obligations.FifoWriters : Prop :=
  ∀ (i : Instr) (s t : State), exec i s = .next t →
    t.fifo = s.fifo ∨
    ((∃ bs, t.fifo = s.fifo ++ bs) ∧
      (performed i = .txStart ∨ (∃ b, performed i = .txByte b) ∨ performed i = .txEnd)) ∨
    (t.fifo = s.fifo.tail ∧ i = .rdOut) ∨
    (t.fifo = [] ∧ performed i = .softReset)

/-- R10, R20 to R26: the data registers are written only by the commands whose rules name them. -/
def Obligations.DataRegisterWriters : Prop :=
  ∀ (i : Instr) (s t : State), exec i s = .next t →
    let p := performed i
    (t.len ≠ s.len → (∃ b, p = .lenShift b) ∨ p = .rxStart ∨ (s.mode = .rxLen ∧ ∃ b, p = .rxByte b) ∨ p = .softReset) ∧
    (t.type ≠ s.type →
      (∃ b, p = .typeShift b) ∨ p = .rxStart ∨ (s.mode = .rxType ∧ ∃ b, p = .rxByte b) ∨ p = .softReset) ∧
    (t.crcState ≠ s.crcState →
      p = .crcInit ∨ (∃ b, p = .crcByte b) ∨ p = .txStart ∨ (∃ b, p = .txByte b) ∨ p = .rxStart ∨
        ((s.mode = .rxType ∨ s.mode = .rxData) ∧ ∃ b, p = .rxByte b) ∨ p = .softReset) ∧
    (t.count ≠ s.count →
      p = .txStart ∨ (∃ b, p = .txByte b) ∨ p = .rxStart ∨ (s.mode = .rxData ∧ ∃ b, p = .rxByte b) ∨
        p = .softReset) ∧
    (t.rxCrc ≠ s.rxCrc → p = .rxStart ∨ (s.mode = .rxCrc ∧ ∃ b, p = .rxByte b) ∨ p = .softReset)

/-- R28: DONE_OK is set by TX_END and by RX_BYTE in RX_CRC, and cleared by TX_START, RX_START, the error commit and
SOFT_RESET, and by nothing else. -/
def Obligations.DoneOkWriters : Prop :=
  ∀ (i : Instr) (s t : State), exec i s = .next t →
    (s.doneOk = false → t.doneOk = true →
      performed i = .txEnd ∨ (s.mode = .rxCrc ∧ ∃ b, performed i = .rxByte b)) ∧
    (s.doneOk = true → t.doneOk = false →
      performed i = .txStart ∨ performed i = .rxStart ∨ performed i = .softReset ∨
        (s.errValid = false ∧ t.errValid = true))

/-- R5, R7: no instruction changes the parameters or the host's remaining accesses, and only a bus read returns a value,
one. -/
def Obligations.HostSideFrame : Prop :=
  ∀ (i : Instr) (s t : State), exec i s = .next t →
    t.cfg = s.cfg ∧ t.pending = s.pending ∧
    (isBusRead i = true → ∃ v, t.reads = s.reads ++ [v]) ∧ (isBusRead i = false → t.reads = s.reads)

/-- R31: no instruction reads DONE_OK to decide its effect: two states that differ in it alone differ in it alone after
any instruction but RD_STATUS. R5, U3: none depends on BASE. -/
def Obligations.DoneOkAndBaseDecideNothing : Prop :=
  (∀ (i : Instr) (s t : State) (d : Bool), i ≠ .rdStatus → exec i s = .next t →
    ∃ t', exec i { s with doneOk := d } = .next t' ∧ t' = { t with doneOk := t'.doneOk }) ∧
  (∀ (i : Instr) (s t : State) (b : Nat), exec i s = .next t →
    exec i { s with cfg := { s.cfg with base := b } } = .next { t with cfg := { t.cfg with base := b } })
end

