-- ==== Sys2Proof/Laws/Crc.lean ====
section
/-! SUPPORT. The small lemmas of the CRC functions. -/

namespace Sys2Proof.Machine

@[simp] theorem crcFold_nil (c : Word) : crcFold c [] = c := rfl

@[simp] theorem crcFold_cons (c : Word) (b : Byte) (s : List Byte) : crcFold c (b :: s) = crcFold (crcStep c b) s := rfl

/-- Folding a concatenation is folding its parts in order. -/
theorem crcFold_append (c : Word) (s t : List Byte) : crcFold c (s ++ t) = crcFold (crcFold c s) t := by
  induction s generalizing c with
  | nil => rfl
  | cons b s ih => simpa using ih (crcStep c b)

/-- The final XOR undoes itself. -/
@[simp] theorem crcFinal_crcFinal (c : Word) : crcFinal (crcFinal c) = c := by
  simp [crcFinal]

/-- The final XOR is injective, so comparing CRCs is comparing registers. -/
theorem crcFinal_inj {c d : Word} : crcFinal c = crcFinal d ↔ c = d :=
  ⟨fun h => by rw [← crcFinal_crcFinal c, h, crcFinal_crcFinal], fun h => h ▸ rfl⟩

end Sys2Proof.Machine
end

