-- ==== Sys2Proof/Laws/State.lean ====
section
/-! SUPPORT. One lemma per field per named update of the state, so that no later proof unfolds an update. -/

namespace Sys2Proof.Machine

/-! ### `push` -/

@[simp] theorem push_mode (bs : List Byte) (s : State) : (push bs s).mode = s.mode := rfl
@[simp] theorem push_idx (bs : List Byte) (s : State) : (push bs s).idx = s.idx := rfl
@[simp] theorem push_errValid (bs : List Byte) (s : State) : (push bs s).errValid = s.errValid := rfl
@[simp] theorem push_errCode (bs : List Byte) (s : State) : (push bs s).errCode = s.errCode := rfl
@[simp] theorem push_errCmd (bs : List Byte) (s : State) : (push bs s).errCmd = s.errCmd := rfl
@[simp] theorem push_doneOk (bs : List Byte) (s : State) : (push bs s).doneOk = s.doneOk := rfl
@[simp] theorem push_len (bs : List Byte) (s : State) : (push bs s).len = s.len := rfl
@[simp] theorem push_type (bs : List Byte) (s : State) : (push bs s).type = s.type := rfl
@[simp] theorem push_crcState (bs : List Byte) (s : State) : (push bs s).crcState = s.crcState := rfl
@[simp] theorem push_count (bs : List Byte) (s : State) : (push bs s).count = s.count := rfl
@[simp] theorem push_rxCrc (bs : List Byte) (s : State) : (push bs s).rxCrc = s.rxCrc := rfl
@[simp] theorem push_fifo (bs : List Byte) (s : State) : (push bs s).fifo = s.fifo ++ bs := rfl
@[simp] theorem push_cfg (bs : List Byte) (s : State) : (push bs s).cfg = s.cfg := rfl
@[simp] theorem push_pending (bs : List Byte) (s : State) : (push bs s).pending = s.pending := rfl
@[simp] theorem push_reads (bs : List Byte) (s : State) : (push bs s).reads = s.reads := rfl

/-! ### `dropHead` -/

@[simp] theorem dropHead_mode (s : State) : (dropHead s).mode = s.mode := rfl
@[simp] theorem dropHead_idx (s : State) : (dropHead s).idx = s.idx := rfl
@[simp] theorem dropHead_errValid (s : State) : (dropHead s).errValid = s.errValid := rfl
@[simp] theorem dropHead_errCode (s : State) : (dropHead s).errCode = s.errCode := rfl
@[simp] theorem dropHead_errCmd (s : State) : (dropHead s).errCmd = s.errCmd := rfl
@[simp] theorem dropHead_doneOk (s : State) : (dropHead s).doneOk = s.doneOk := rfl
@[simp] theorem dropHead_len (s : State) : (dropHead s).len = s.len := rfl
@[simp] theorem dropHead_type (s : State) : (dropHead s).type = s.type := rfl
@[simp] theorem dropHead_crcState (s : State) : (dropHead s).crcState = s.crcState := rfl
@[simp] theorem dropHead_count (s : State) : (dropHead s).count = s.count := rfl
@[simp] theorem dropHead_rxCrc (s : State) : (dropHead s).rxCrc = s.rxCrc := rfl
@[simp] theorem dropHead_fifo (s : State) : (dropHead s).fifo = s.fifo.tail := rfl
@[simp] theorem dropHead_cfg (s : State) : (dropHead s).cfg = s.cfg := rfl
@[simp] theorem dropHead_pending (s : State) : (dropHead s).pending = s.pending := rfl
@[simp] theorem dropHead_reads (s : State) : (dropHead s).reads = s.reads := rfl

/-! ### `observe` -/

@[simp] theorem observe_mode (v : Word) (s : State) : (observe v s).mode = s.mode := rfl
@[simp] theorem observe_idx (v : Word) (s : State) : (observe v s).idx = s.idx := rfl
@[simp] theorem observe_errValid (v : Word) (s : State) : (observe v s).errValid = s.errValid := rfl
@[simp] theorem observe_errCode (v : Word) (s : State) : (observe v s).errCode = s.errCode := rfl
@[simp] theorem observe_errCmd (v : Word) (s : State) : (observe v s).errCmd = s.errCmd := rfl
@[simp] theorem observe_doneOk (v : Word) (s : State) : (observe v s).doneOk = s.doneOk := rfl
@[simp] theorem observe_len (v : Word) (s : State) : (observe v s).len = s.len := rfl
@[simp] theorem observe_type (v : Word) (s : State) : (observe v s).type = s.type := rfl
@[simp] theorem observe_crcState (v : Word) (s : State) : (observe v s).crcState = s.crcState := rfl
@[simp] theorem observe_count (v : Word) (s : State) : (observe v s).count = s.count := rfl
@[simp] theorem observe_rxCrc (v : Word) (s : State) : (observe v s).rxCrc = s.rxCrc := rfl
@[simp] theorem observe_fifo (v : Word) (s : State) : (observe v s).fifo = s.fifo := rfl
@[simp] theorem observe_cfg (v : Word) (s : State) : (observe v s).cfg = s.cfg := rfl
@[simp] theorem observe_pending (v : Word) (s : State) : (observe v s).pending = s.pending := rfl
@[simp] theorem observe_reads (v : Word) (s : State) : (observe v s).reads = s.reads ++ [v] := rfl

/-! ### `raise` -/

@[simp] theorem raise_mode (e : ErrKind) (w : Word) (s : State) : (raise e w s).mode = .idle := rfl
@[simp] theorem raise_idx (e : ErrKind) (w : Word) (s : State) : (raise e w s).idx = 0#2 := rfl
@[simp] theorem raise_errValid (e : ErrKind) (w : Word) (s : State) : (raise e w s).errValid = true := rfl
@[simp] theorem raise_errCode (e : ErrKind) (w : Word) (s : State) : (raise e w s).errCode = if s.errValid then s.errCode else e.code := rfl
@[simp] theorem raise_errCmd (e : ErrKind) (w : Word) (s : State) : (raise e w s).errCmd = if s.errValid then s.errCmd else w := rfl
@[simp] theorem raise_doneOk (e : ErrKind) (w : Word) (s : State) : (raise e w s).doneOk = false := rfl
@[simp] theorem raise_len (e : ErrKind) (w : Word) (s : State) : (raise e w s).len = s.len := rfl
@[simp] theorem raise_type (e : ErrKind) (w : Word) (s : State) : (raise e w s).type = s.type := rfl
@[simp] theorem raise_crcState (e : ErrKind) (w : Word) (s : State) : (raise e w s).crcState = s.crcState := rfl
@[simp] theorem raise_count (e : ErrKind) (w : Word) (s : State) : (raise e w s).count = s.count := rfl
@[simp] theorem raise_rxCrc (e : ErrKind) (w : Word) (s : State) : (raise e w s).rxCrc = s.rxCrc := rfl
@[simp] theorem raise_fifo (e : ErrKind) (w : Word) (s : State) : (raise e w s).fifo = s.fifo := rfl
@[simp] theorem raise_cfg (e : ErrKind) (w : Word) (s : State) : (raise e w s).cfg = s.cfg := rfl
@[simp] theorem raise_pending (e : ErrKind) (w : Word) (s : State) : (raise e w s).pending = s.pending := rfl
@[simp] theorem raise_reads (e : ErrKind) (w : Word) (s : State) : (raise e w s).reads = s.reads := rfl

/-! ### `clearError` -/

@[simp] theorem clearError_mode (s : State) : (clearError s).mode = s.mode := rfl
@[simp] theorem clearError_idx (s : State) : (clearError s).idx = s.idx := rfl
@[simp] theorem clearError_errValid (s : State) : (clearError s).errValid = false := rfl
@[simp] theorem clearError_errCode (s : State) : (clearError s).errCode = 0#4 := rfl
@[simp] theorem clearError_errCmd (s : State) : (clearError s).errCmd = 0#32 := rfl
@[simp] theorem clearError_doneOk (s : State) : (clearError s).doneOk = s.doneOk := rfl
@[simp] theorem clearError_len (s : State) : (clearError s).len = s.len := rfl
@[simp] theorem clearError_type (s : State) : (clearError s).type = s.type := rfl
@[simp] theorem clearError_crcState (s : State) : (clearError s).crcState = s.crcState := rfl
@[simp] theorem clearError_count (s : State) : (clearError s).count = s.count := rfl
@[simp] theorem clearError_rxCrc (s : State) : (clearError s).rxCrc = s.rxCrc := rfl
@[simp] theorem clearError_fifo (s : State) : (clearError s).fifo = s.fifo := rfl
@[simp] theorem clearError_cfg (s : State) : (clearError s).cfg = s.cfg := rfl
@[simp] theorem clearError_pending (s : State) : (clearError s).pending = s.pending := rfl
@[simp] theorem clearError_reads (s : State) : (clearError s).reads = s.reads := rfl

/-! ### `resetBlock` -/

@[simp] theorem resetBlock_mode (s : State) : (resetBlock s).mode = .idle := rfl
@[simp] theorem resetBlock_idx (s : State) : (resetBlock s).idx = 0#2 := rfl
@[simp] theorem resetBlock_errValid (s : State) : (resetBlock s).errValid = false := rfl
@[simp] theorem resetBlock_errCode (s : State) : (resetBlock s).errCode = 0#4 := rfl
@[simp] theorem resetBlock_errCmd (s : State) : (resetBlock s).errCmd = 0#32 := rfl
@[simp] theorem resetBlock_doneOk (s : State) : (resetBlock s).doneOk = false := rfl
@[simp] theorem resetBlock_len (s : State) : (resetBlock s).len = 0#32 := rfl
@[simp] theorem resetBlock_type (s : State) : (resetBlock s).type = 0#32 := rfl
@[simp] theorem resetBlock_crcState (s : State) : (resetBlock s).crcState = 0xFFFFFFFF#32 := rfl
@[simp] theorem resetBlock_count (s : State) : (resetBlock s).count = 0#32 := rfl
@[simp] theorem resetBlock_rxCrc (s : State) : (resetBlock s).rxCrc = 0#32 := rfl
@[simp] theorem resetBlock_fifo (s : State) : (resetBlock s).fifo = [] := rfl
@[simp] theorem resetBlock_cfg (s : State) : (resetBlock s).cfg = s.cfg := rfl
@[simp] theorem resetBlock_pending (s : State) : (resetBlock s).pending = s.pending := rfl
@[simp] theorem resetBlock_reads (s : State) : (resetBlock s).reads = s.reads := rfl

/-! ### `State.resetWith` -/

@[simp] theorem State.resetWith_mode (c : Config) : (State.resetWith c).mode = .idle := rfl
@[simp] theorem State.resetWith_idx (c : Config) : (State.resetWith c).idx = 0#2 := rfl
@[simp] theorem State.resetWith_errValid (c : Config) : (State.resetWith c).errValid = false := rfl
@[simp] theorem State.resetWith_errCode (c : Config) : (State.resetWith c).errCode = 0#4 := rfl
@[simp] theorem State.resetWith_errCmd (c : Config) : (State.resetWith c).errCmd = 0#32 := rfl
@[simp] theorem State.resetWith_doneOk (c : Config) : (State.resetWith c).doneOk = false := rfl
@[simp] theorem State.resetWith_len (c : Config) : (State.resetWith c).len = 0#32 := rfl
@[simp] theorem State.resetWith_type (c : Config) : (State.resetWith c).type = 0#32 := rfl
@[simp] theorem State.resetWith_crcState (c : Config) : (State.resetWith c).crcState = 0xFFFFFFFF#32 := rfl
@[simp] theorem State.resetWith_count (c : Config) : (State.resetWith c).count = 0#32 := rfl
@[simp] theorem State.resetWith_rxCrc (c : Config) : (State.resetWith c).rxCrc = 0#32 := rfl
@[simp] theorem State.resetWith_fifo (c : Config) : (State.resetWith c).fifo = [] := rfl
@[simp] theorem State.resetWith_cfg (c : Config) : (State.resetWith c).cfg = c := rfl
@[simp] theorem State.resetWith_pending (c : Config) : (State.resetWith c).pending = [] := rfl
@[simp] theorem State.resetWith_reads (c : Config) : (State.resetWith c).reads = [] := rfl

/-! ### The FIFO's level -/

@[simp] theorem outLevel_push (bs : List Byte) (s : State) : (push bs s).outLevel = s.outLevel + bs.length := by
  simp [State.outLevel]

@[simp] theorem outLevel_dropHead (s : State) : (dropHead s).outLevel = s.outLevel - 1 := by
  simp [State.outLevel]

@[simp] theorem outLevel_observe (v : Word) (s : State) : (observe v s).outLevel = s.outLevel := rfl

@[simp] theorem outLevel_raise (e : ErrKind) (w : Word) (s : State) : (raise e w s).outLevel = s.outLevel := rfl

@[simp] theorem outLevel_clearError (s : State) : (clearError s).outLevel = s.outLevel := rfl

@[simp] theorem outLevel_resetBlock (s : State) : (resetBlock s).outLevel = 0 := rfl

end Sys2Proof.Machine
end

