-- ==== Sys2Proof/Laws/Ops.lean ====
section
/-! SUPPORT. What each shared operation can do, said once. -/

namespace Sys2Proof.Machine

/-! ### Dropping -/

/-- While an error is pending a command changes nothing. -/
theorem unlessPending_of_pending {s : State} (h : s.errValid = true) (t : State) : unlessPending s t = s := by
  simp [unlessPending, h]

/-- Without a pending error a command has its effect. -/
theorem unlessPending_of_clear {s : State} (h : s.errValid = false) (t : State) : unlessPending s t = t := by
  simp [unlessPending, h]

/-- A command either is dropped or has its effect, and which of them the pending error decides. -/
theorem unlessPending_cases (s t : State) :
    (s.errValid = true ∧ unlessPending s t = s) ∨ (s.errValid = false ∧ unlessPending s t = t) := by
  cases h : s.errValid <;> simp [unlessPending, h]

/-! ### The error commit -/

/-- Without a pending error, `raise` is the error commit as R55 writes it. -/
theorem raise_of_clear {s : State} (h : s.errValid = false) (e : ErrKind) (w : Word) :
    raise e w s = errorState e.code w s := by
  simp [raise, errorState, h]

/-- The first error wins: a second `raise` leaves the record as it is. -/
theorem raise_raise (e f : ErrKind) (v w : Word) (s : State) : raise f w (raise e v s) = raise e v s := by
  simp [raise]

/-- The codes of the seven kinds are 1 to 7. -/
theorem ErrKind.code_range (e : ErrKind) : 1#4 ≤ e.code ∧ e.code ≤ 7#4 := by
  cases e <;> decide

/-! ### The 4-byte fields of the checker -/

/-- After a byte of a 4-byte field: on to the next mode with IDX = 0, or one more byte counted in the same mode. -/
theorem nextInField_cases (m : Mode) (s : State) :
    (s.idx = 3#2 ∧ nextInField m s = { s with idx := 0#2, mode := m }) ∨
      (s.idx ≠ 3#2 ∧ nextInField m s = { s with idx := s.idx + 1#2 }) := by
  by_cases h : s.idx = 3#2
  · exact .inl ⟨h, by simp [nextInField, h]⟩
  · exact .inr ⟨h, by simp [nextInField, h]⟩

/-! ### Reset -/

/-- Reset leaves the reset state of R30, with the parameters and the host's side kept. -/
theorem resetBlock_eq (s : State) :
    resetBlock s = { State.resetWith s.cfg with pending := s.pending, reads := s.reads } := rfl

/-! ### Legal states -/

/-- `legal` as the list of R32's propositions and R5's ranges. -/
theorem legal_iff (s : State) :
    s.legal = true ↔
      (s.mode.countsIdx = true ∨ s.idx = 0#2) ∧
      (s.mode = .txData → s.count ≤ s.len) ∧
      (s.mode = .rxData → s.count < s.len) ∧
      (s.errValid = false → s.errCode = 0#4 ∧ s.errCmd = 0#32) ∧
      (s.errValid = true → 1#4 ≤ s.errCode ∧ s.errCode ≤ 7#4) ∧
      (s.doneOk = true → s.mode = .idle) ∧
      s.outLevel ≤ s.cfg.outDepth ∧
      (8 ≤ s.cfg.outDepth ∧ s.cfg.outDepth ≤ 255 ∧ s.cfg.base % 64 = 0) := by
  simp only [State.legal, configInRange, Bool.and_eq_true, Bool.or_eq_true, decide_eq_true_eq, beq_iff_eq, bne_iff_ne,
    Bool.not_eq_true', ne_eq, and_assoc]
  cases s.errValid <;> cases s.doneOk <;> simp [imp_iff_not_or]

/-! ### The invariant under the shared operations -/

/-- Taking an error keeps the invariant. -/
theorem blockInv_raise {s : State} (h : BlockInv s) (e : ErrKind) (w : Word) : BlockInv (raise e w s) := by
  obtain ⟨hl, -⟩ := h
  obtain ⟨-, -, -, -, hc, -, hf, hp⟩ := (legal_iff s).1 hl
  refine ⟨(legal_iff _).2 ⟨.inr rfl, nofun, nofun, nofun, fun _ => ?_, fun _ => rfl, hf, hp⟩, nofun⟩
  cases hv : s.errValid with
  | false => simpa [hv] using e.code_range
  | true => simpa [hv] using hc hv

/-- A command keeps the invariant if its effect does where no error is pending. -/
theorem blockInv_unlessPending {s t : State} (h : BlockInv s) (ht : s.errValid = false → BlockInv t) :
    BlockInv (unlessPending s t) := by
  obtain ⟨-, h'⟩ | ⟨hv, h'⟩ := unlessPending_cases s t <;> rw [h']
  exacts [h, ht hv]

/-- Returning a value to the host keeps the invariant. -/
theorem blockInv_observe {s : State} (h : BlockInv s) (v : Word) : BlockInv (observe v s) := ⟨h.legal, h.countZero⟩

end Sys2Proof.Machine
end

