-- ==== Sys2Proof/Laws/Words.lean ====
section
/-! SUPPORT. The fields of a command word and the bytes of a register word. -/

namespace Sys2Proof

/-- OPC of an assembled word. -/
@[simp] theorem opcField_cmdWord (opc imm : Byte) : opcField (cmdWord opc imm) = opc := by
  apply BitVec.eq_of_getLsbD_eq
  intro i hi
  simp only [opcField, cmdWord, BitVec.getLsbD_extractLsb', BitVec.getLsbD_append, hi, decide_true, Bool.true_and]
  rw [if_neg (by omega), if_neg (by omega)]
  congr 1
  omega

/-- RSV of an assembled word is 0. -/
@[simp] theorem rsvField_cmdWord (opc imm : Byte) : rsvField (cmdWord opc imm) = 0#16 := by
  apply BitVec.eq_of_getLsbD_eq
  intro i hi
  simp only [rsvField, cmdWord, BitVec.getLsbD_extractLsb', BitVec.getLsbD_append, hi, decide_true, Bool.true_and]
  rw [if_neg (by omega), if_pos (by omega)]
  simp

/-- IMM8 of an assembled word. -/
@[simp] theorem immField_cmdWord (opc imm : Byte) : immField (cmdWord opc imm) = imm := by
  apply BitVec.eq_of_getLsbD_eq
  intro i hi
  simp only [immField, cmdWord, BitVec.getLsbD_extractLsb', BitVec.getLsbD_append, hi, decide_true, Bool.true_and]
  rw [if_pos (by omega)]
  congr 1
  omega

/-- A word is its three fields put together, when RSV is 0. -/
theorem cmdWord_fields (w : Word) (h : rsvField w = 0#16) : cmdWord (opcField w) (immField w) = w := by
  rw [cmdWord, ← h]
  apply BitVec.eq_of_getLsbD_eq
  intro i hi
  simp only [opcField, immField, rsvField, BitVec.getLsbD_append, BitVec.getLsbD_extractLsb']
  split
  · simp_all
  · split
    · rename_i h1 h2
      have : 8 + (i - 8) = i := by omega
      simp [h2, this]
    · rename_i h1 h2
      have : 24 + (i - 8 - 16) = i := by omega
      have h3 : i - 8 - 16 < 8 := by omega
      simp [h3, this]

/-- The window offset of a 4-byte access in the window is the offset it was addressed by. -/
@[simp] theorem windowOffset_base_add (c : Config) (off : BitVec 6) :
    windowOffset c (c.base + off.toNat) 4 = .ok off := by
  have := off.isLt
  rw [windowOffset, if_neg (by decide), if_neg (by omega)]
  simp

namespace Machine

/-- The big-endian bytes of a word make the word again. -/
theorem ofBe32_be32 (v : Word) :
    ofBe32 (v.extractLsb' 24 8) (v.extractLsb' 16 8) (v.extractLsb' 8 8) (v.extractLsb' 0 8) = v := by
  apply BitVec.eq_of_getLsbD_eq
  intro i hi
  simp only [ofBe32, BitVec.getLsbD_append, BitVec.getLsbD_extractLsb']
  split
  · simp_all
  · split
    · rename_i h1 h2
      have : 8 + (i - 8) = i := by omega
      simp [h2, this]
    · split
      · rename_i h1 h2 h3
        have : 16 + (i - 8 - 8) = i := by omega
        simp [h3, this]
      · rename_i h1 h2 h3
        have : 24 + (i - 8 - 8 - 8) = i := by omega
        have h4 : i - 8 - 8 - 8 < 8 := by omega
        simp [h4, this]

/-- `be32` has four bytes. -/
@[simp] theorem be32_length (v : Word) : (be32 v).length = 4 := rfl

/-- Four bytes shifted in replace a register, the first in the most significant place. -/
theorem shiftIn_four (v : Word) (b0 b1 b2 b3 : Byte) :
    shiftIn (shiftIn (shiftIn (shiftIn v b0) b1) b2) b3 = ofBe32 b0 b1 b2 b3 := by
  apply BitVec.eq_of_getLsbD_eq
  intro i hi
  simp only [shiftIn, ofBe32, BitVec.getLsbD_append, BitVec.getLsbD_extractLsb', Nat.zero_add]
  by_cases h1 : i < 8
  · simp [h1]
  by_cases h2 : i - 8 < 8
  · have : i - 8 < 24 := by omega
    simp [h1, h2, this]
  by_cases h3 : i - 8 - 8 < 8
  · have : i - 8 < 24 := by omega
    have : i - 8 - 8 < 24 := by omega
    simp [*]
  · have : i - 8 < 24 := by omega
    have : i - 8 - 8 < 24 := by omega
    have : i - 8 - 8 - 8 < 24 := by omega
    have : i - 8 - 8 - 8 < 8 := by omega
    simp [*]

end Machine

end Sys2Proof
end

