-- ==== Sys2Proof/Laws/PerInstr.lean ====
section
/-! SUPPORT. The family ReservedBits of LAWS.json: a well-formed instruction's form has every reserved bit 0, RSV of a
command word (R44 (a)) and the low two bits of a window offset (R12, R44 (b)). -/

namespace Sys2Proof.Laws.ReservedBits

/-- The reserved bits of a form are 0. -/
def clear : Form → Bool
  | .cmd32 w => rsvField w == 0#16
  | .read off => off.extractLsb' 0 2 == 0#2
  | .write off _ => off.extractLsb' 0 2 == 0#2

/-- A well-formed instruction is encoded with its reserved bits 0. -/
def Statement (i : Instr) : Prop := i.wellFormed = true → clear (encode i) = true

theorem nop : Statement .nop := fun _ => by decide
theorem crcInit : Statement .crcInit := fun _ => by decide
theorem crcByte (b : Byte) : Statement (.crcByte b) := fun _ => by simp [clear, encode, encodeCmd]
theorem lenShift (b : Byte) : Statement (.lenShift b) := fun _ => by simp [clear, encode, encodeCmd]
theorem typeShift (b : Byte) : Statement (.typeShift b) := fun _ => by simp [clear, encode, encodeCmd]
theorem txStart : Statement .txStart := fun _ => by decide
theorem txByte (b : Byte) : Statement (.txByte b) := fun _ => by simp [clear, encode, encodeCmd]
theorem txEnd : Statement .txEnd := fun _ => by decide
theorem rxStart : Statement .rxStart := fun _ => by decide
theorem rxByte (b : Byte) : Statement (.rxByte b) := fun _ => by simp [clear, encode, encodeCmd]
theorem rxEnd : Statement .rxEnd := fun _ => by decide
theorem clrErr : Statement .clrErr := fun _ => by decide
theorem softReset : Statement .softReset := fun _ => by decide
theorem rdId : Statement .rdId := fun _ => by decide
theorem rdCmd : Statement .rdCmd := fun _ => by decide
theorem rdStatus : Statement .rdStatus := fun _ => by decide
theorem rdErr : Statement .rdErr := fun _ => by decide
theorem rdErrCmd : Statement .rdErrCmd := fun _ => by decide
theorem rdLen : Statement .rdLen := fun _ => by decide
theorem rdType : Statement .rdType := fun _ => by decide
theorem rdTypeInfo : Statement .rdTypeInfo := fun _ => by decide
theorem rdCrcState : Statement .rdCrcState := fun _ => by decide
theorem rdCrcResult : Statement .rdCrcResult := fun _ => by decide
theorem rdCount : Statement .rdCount := fun _ => by decide
theorem rdRxCrc : Statement .rdRxCrc := fun _ => by decide
theorem rdOut : Statement .rdOut := fun _ => by decide

theorem rdRsvd (off : BitVec 6) : Statement (.rdRsvd off) := by
  intro h
  simp only [Instr.wellFormed, isReservedOffset, Bool.or_eq_true, beq_iff_eq] at h
  obtain (rfl | rfl) | rfl := h <;> decide

theorem wrCmd (w : Word) : Statement (.wrCmd w) := fun _ => by simp [clear, encode]

theorem wrIgnored (off : BitVec 6) (data : Word) : Statement (.wrIgnored off data) := by
  intro h
  simp only [Instr.wellFormed, isIgnoredOffset, Bool.and_eq_true] at h
  exact h.1

end Sys2Proof.Laws.ReservedBits
end

