-- ==== Sys2Proof/Laws/Run.lean ====
section
/-! SUPPORT. Runs of instructions, and that every instruction completes. -/

namespace Sys2Proof.Machine

/-- No meaning stops: every instruction answers a next state, in every state. -/
theorem exec_answers (i : Instr) (s : State) : ∃ t, exec i s = .next t := by
  cases i
  case wrCmd w =>
    simp only [exec, execWrCmd]
    split <;> exact ⟨_, rfl⟩
  all_goals exact ⟨_, rfl⟩

@[simp] theorem runAll_nil (s : State) : runAll [] s = .next s := rfl

/-- A run's first instruction, when it completes, is followed by the rest of the run. -/
theorem runAll_cons {i : Instr} {s t : State} (h : exec i s = .next t) (is : List Instr) :
    runAll (i :: is) s = runAll is t := by
  simp [runAll, h]

/-- A run of two parts is the second part run from where the first ended. -/
theorem runAll_append {is : List Instr} {s t : State} (h : runAll is s = .next t) (js : List Instr) :
    runAll (is ++ js) s = runAll js t := by
  induction is generalizing s with
  | nil => simp only [runAll_nil, Host.Outcome.next.injEq] at h; simp [h]
  | cons i is ih =>
    obtain ⟨u, hu⟩ := exec_answers i s
    rw [runAll_cons hu] at h
    rw [List.cons_append, runAll_cons hu]
    exact ih h

/-- Every run completes. -/
theorem runAll_answers (is : List Instr) (s : State) : ∃ t, runAll is s = .next t := by
  induction is generalizing s with
  | nil => exact ⟨s, rfl⟩
  | cons i is ih =>
    obtain ⟨u, hu⟩ := exec_answers i s
    rw [runAll_cons hu]
    exact ih u

/-! ### The host's sequences -/

theorem stateAfter_eq {is : List Instr} {s t : State} (h : runAll is s = .next t) : stateAfter is s = t := by
  simp [stateAfter, h]

/-- The run whose end `stateAfter` is. -/
theorem runAll_stateAfter (is : List Instr) (s : State) : runAll is s = .next (stateAfter is s) := by
  obtain ⟨t, h⟩ := runAll_answers is s
  rw [stateAfter_eq h, h]

/-- A bus read gives the host the value that its meaning observes, and the state that its meaning gives. -/
theorem hostRead_eq {i : Instr} {s t : State} {v : Word} (h : exec i s = .next (observe v t)) :
    hostRead i s = (v, observe v t) := by
  have : stateAfter [i] s = observe v t := stateAfter_eq (runAll_cons h [])
  simp [hostRead, this, observe]

theorem hostRead_rdStatus (s : State) : hostRead .rdStatus s = (statusWord s, observe (statusWord s) s) :=
  hostRead_eq rfl

theorem hostRead_rdErr (s : State) : hostRead .rdErr s = (errWord s, observe (errWord s) s) :=
  hostRead_eq rfl

/-- An accepted image's end is the end of the run of its instructions. -/
theorem runAll_imageInstrs {cs : List (Word × List Byte)} {s e : State} {bytes : List Byte}
    (h : serializeChunks cs s = .ok (bytes, e)) : runAll (imageInstrs cs) s = .next e := by
  induction cs generalizing s bytes with
  | nil => simp only [serializeChunks, Except.ok.injEq, Prod.mk.injEq] at h; simp [imageInstrs, h.2]
  | cons c cs ih =>
    have hframe := runAll_append (runAll_stateAfter (frameDrained c.1 c.2) s) [.rdStatus]
    rw [runAll_stateAfter [.rdStatus]] at hframe
    simp only [serializeChunks] at h
    split at h
    · split at h
      · rename_i rest t hrest
        simp only [Except.ok.injEq, Prod.mk.injEq] at h
        rw [imageInstrs, List.flatMap_cons, runAll_append hframe, ← imageInstrs]
        exact ih (h.2 ▸ hrest)
      · cases h
    · cases h

end Sys2Proof.Machine
end

