-- ==== Sys2Proof/Machine/Assembler.lean ====
section
/-! DEFINITION. The assembler of spec/30_encoding.md R51: one line of text to the command word written to CMD, the bus
read, or nothing (an empty or comment line). It is host software; the block never sees text. DESIGN CHOICE (log entry
13): the points R51 leaves open, each named where it is settled. -/

namespace Sys2Proof.Machine

/-- Why a line does not assemble (R51: "an assembly error, not an ILLEGAL word"). DESIGN CHOICE (log entry 13): the names
of the errors, and which one a line with several defects gets. -/
inductive AsmError where
  | unknownMnemonic | unknownRegister | badNumber | immediateRange | unexpectedImmediate | missingImmediate
  deriving DecidableEq, Repr

/-- The token read so far, if any, before the tokens that follow it. -/
def endToken (cur : List Char) (ts : List (List Char)) : List (List Char) :=
  if cur.isEmpty then ts else cur.reverse :: ts

/-- A line's tokens: ';' begins a comment (R51). DESIGN CHOICE (log entry 13): blanks and tabs separate tokens; a
character literal is taken whole, whatever its character, and is a token of its own also where no blank stands before or
after it, so that TX_BYTE'a' assembles; a quote that begins no literal is an ordinary character. `cur` is the token being
read, reversed. -/
def tokens : List Char → List Char → List (List Char)
  | [], cur => endToken cur []
  | '\'' :: c :: '\'' :: cs, cur => endToken cur (['\'', c, '\''] :: tokens cs [])
  | c :: cs, cur =>
    if c = ';' then endToken cur []
    else if c = ' ' ∨ c = '\t' then endToken cur (tokens cs [])
    else tokens cs (c :: cur)

/-- The value of a digit in base `base`, 10 or 16. DESIGN CHOICE (log entry 13): hex digits are of either case. -/
def digitValue (base : Nat) (c : Char) : Option Nat :=
  let n := c.toNat
  let v := if 48 ≤ n ∧ n ≤ 57 then n - 48
    else if 97 ≤ n ∧ n ≤ 102 then n - 87
    else if 65 ≤ n ∧ n ≤ 70 then n - 55
    else base
  if v < base then some v else none

/-- Digits, most significant first, after the value `acc`. -/
def digitsValue (base : Nat) : List Char → Nat → Option Nat
  | [], acc => some acc
  | c :: cs, acc =>
    match digitValue base c with
    | some v => digitsValue base cs (acc * base + v)
    | none => none

/-- An immediate: a character literal standing for its ASCII code, hex as 0x.., or decimal (R51). DESIGN CHOICE (log
entry 13): a character that is not ASCII stands for its Unicode code point, so that 0x80 to 0xFF give that byte and
higher ones are out of range; the x is small; any number of digits is read. -/
def numberValue : List Char → Option Nat
  | ['\'', c, '\''] => some c.toNat
  | '0' :: 'x' :: d :: ds => digitsValue 16 (d :: ds) 0
  | d :: ds => digitsValue 10 (d :: ds) 0
  | [] => none

/-- A command mnemonic (R46): the command, or the function of its operand. DESIGN CHOICE (log entry 13): names are
written in the spec's own case. -/
def asmCommand : String → Option (Cmd ⊕ (Byte → Cmd))
  | "NOP" => some (.inl .nop)
  | "CRC_INIT" => some (.inl .crcInit)
  | "CRC_BYTE" => some (.inr .crcByte)
  | "LEN_SHIFT" => some (.inr .lenShift)
  | "TYPE_SHIFT" => some (.inr .typeShift)
  | "TX_START" => some (.inl .txStart)
  | "TX_BYTE" => some (.inr .txByte)
  | "TX_END" => some (.inl .txEnd)
  | "RX_START" => some (.inl .rxStart)
  | "RX_BYTE" => some (.inr .rxByte)
  | "RX_END" => some (.inl .rxEnd)
  | "CLR_ERR" => some (.inl .clrErr)
  | "SOFT_RESET" => some (.inl .softReset)
  | _ => none

/-- The window offset of a register name of R12, for `rd NAME`. DESIGN CHOICE (log entry 13): a reserved offset has no
name. -/
def asmRegister : String → Option (BitVec 6)
  | "ID" => some 0x00
  | "CMD" => some 0x04
  | "STATUS" => some 0x08
  | "ERR" => some 0x0C
  | "ERR_CMD" => some 0x10
  | "LEN" => some 0x14
  | "TYPE" => some 0x18
  | "TYPE_INFO" => some 0x1C
  | "CRC_STATE" => some 0x20
  | "CRC_RESULT" => some 0x24
  | "COUNT" => some 0x28
  | "RX_CRC" => some 0x2C
  | "OUT" => some 0x30
  | _ => none

/-- The form of one line's tokens (R51). DESIGN CHOICE (log entry 13): `.word`, which R51 writes with eight hex digits
only, takes every operand form of `numberValue` below 2^32, and a byte command without an immediate is an error. -/
def assembleTokens : List (List Char) → Except AsmError (Option Form)
  | [] => .ok none
  | [op] =>
    match asmCommand (String.ofList op) with
    | some (.inl c) => .ok (some (.cmd32 (encodeCmd c)))
    | some (.inr _) => .error .missingImmediate
    | none => .error .unknownMnemonic
  | [op, arg] =>
    if String.ofList op = "rd" then
      match asmRegister (String.ofList arg) with
      | some off => .ok (some (.read off))
      | none => .error .unknownRegister
    else
      match numberValue arg with
      | none => .error .badNumber
      | some n =>
        if String.ofList op = ".word" then
          if n < 2 ^ 32 then .ok (some (.cmd32 (BitVec.ofNat 32 n))) else .error .immediateRange
        else
          match asmCommand (String.ofList op) with
          | some (.inr c) =>
            if n ≤ 255 then .ok (some (.cmd32 (encodeCmd (c (BitVec.ofNat 8 n))))) else .error .immediateRange
          | some (.inl _) => .error .unexpectedImmediate
          | none => .error .unknownMnemonic
  | _ => .error .unexpectedImmediate

/-- One line of assembly (R51). -/
def assembleLine (line : List Char) : Except AsmError (Option Form) := assembleTokens (tokens line [])

end Sys2Proof.Machine
end

