-- ==== Sys2Proof/Tests/Slice0.lean ====
section
/-! SUPPORT. The model's own tests. Expected results are the spec's (spec/95_test_vectors.md, by vector name, and the
encodings of spec/30_encoding.md R46 and R50 written out), and the witnesses that every hypothesis of a statement can be
met. -/

namespace Sys2Proof.Tests

open Sys2Proof.Machine

/-! ### Small states -/

/-- The next state has a property. -/
def nextHas (r : Result) (p : State → Bool) : Bool :=
  match r with
  | .next t => p t
  | .fault _ => false
  | .refused _ => false

/-- The step is refused for a reason. -/
def refusedFor (r : Result) (why : Refusal) : Bool :=
  match r with
  | .next _ => false
  | .fault _ => false
  | .refused w => w == why

/-- After reset. -/
def idleState : State := State.reset

/-- An error pending (CTL-4). -/
def errState : State :=
  { State.reset with errValid := true, errCode := 1, errCmd := 0x03000000 }

/-- In a frame of LEN = 2 with one data byte "h" sent, after TX_START for "ruSt" (TX-3). -/
def txState : State :=
  { State.reset with
    mode := .txData, len := 2, type := 0x72755374, crcState := 0x80EE2E92, count := 1,
    fifo := [0x00, 0x00, 0x00, 0x02, 0x72, 0x75, 0x53, 0x74, 0x68] }

/-- The IEND frame after TX_START (R74's example): all data sent. -/
def txDoneState : State :=
  { State.reset with
    mode := .txData, type := 0x49454E44, crcState := 0x51BD9F7D,
    fifo := [0x00, 0x00, 0x00, 0x00, 0x49, 0x45, 0x4E, 0x44] }

/-- A full FIFO of sixteen bytes. -/
def sixteen : List Byte := List.replicate 16 0x55

/-- The checker waiting for byte `i` of a 4-byte field. -/
def rxState (m : Mode) (i : BitVec 2) : State := { State.reset with mode := m, idx := i }

/-- The checker before the fourth CRC byte of IEND (RX-9's shape on P4). -/
def rxLastState : State :=
  { State.reset with
    mode := .rxCrc, idx := 3, type := 0x49454E44, crcState := 0x51BD9F7D, rxCrc := 0x00AE4260 }

/-! ### Well-formedness smoke tests: one ill-formed term for each check -/

theorem test_rdRsvd_at_a_register_is_ill_formed : (Instr.rdRsvd 0x14).wellFormed = false := by decide
theorem test_wrIgnored_at_cmd_is_ill_formed : (Instr.wrIgnored 0x04 0).wellFormed = false := by decide
theorem test_wrIgnored_misaligned_is_ill_formed : (Instr.wrIgnored 0x15 0).wellFormed = false := by decide
theorem test_rdRsvd_is_well_formed : (Instr.rdRsvd 0x3C).wellFormed = true := by decide
theorem test_wrIgnored_is_well_formed : (Instr.wrIgnored 0x30 7).wellFormed = true := by decide

/-! ### Decoding words written out from R46: OPC 8 bits, RSV 16 bits, IMM8 8 bits -/

theorem test_decode_control_words :
    decodeTableWord 32 0b00000000_0000000000000000_00000000 = some .nop ∧
    decodeTableWord 32 0b11110000_0000000000000000_00000000 = some .clrErr ∧
    decodeTableWord 32 0b11110001_0000000000000000_00000000 = some .softReset := by decide

theorem test_decode_crc_words :
    decodeTableWord 32 0b00000001_0000000000000000_00000000 = some .crcInit ∧
    decodeTableWord 32 0b00000010_0000000000000000_10000001 = some (.crcByte 0x81) := by decide

theorem test_decode_load_words :
    decodeTableWord 32 0b00001000_0000000000000000_10011010 = some (.lenShift 0x9A) ∧
    decodeTableWord 32 0b00001001_0000000000000000_01110100 = some (.typeShift 0x74) := by decide

theorem test_decode_framer_words :
    decodeTableWord 32 0b00010000_0000000000000000_00000000 = some .txStart ∧
    decodeTableWord 32 0b00010001_0000000000000000_11111111 = some (.txByte 0xFF) ∧
    decodeTableWord 32 0b00010010_0000000000000000_00000000 = some .txEnd := by decide

theorem test_decode_checker_words :
    decodeTableWord 32 0b00100000_0000000000000000_00000000 = some .rxStart ∧
    decodeTableWord 32 0b00100001_0000000000000000_01100000 = some (.rxByte 0x60) ∧
    decodeTableWord 32 0b00100010_0000000000000000_00000000 = some .rxEnd := by decide

/-- CTL-2 to CTL-6: the illegal words, one of each class of R48. -/
theorem test_decode_illegal_words :
    decodeCmd 0x00000001 = .error .unexpectedOperand ∧ decodeCmd 0x02010000 = .error .reservedField ∧
    decodeCmd 0x03000000 = .error .unassignedOpc ∧ decodeCmd 0xFF000000 = .error .unassignedOpc ∧
    decodeCmd 0x01000001 = .error .unexpectedOperand := by decide

/-- Bus keys dir<<6 | off of the opcode table. -/
theorem test_decode_bus_read_keys :
    decodeTableWord 8 0x00 = some .rdId ∧ decodeTableWord 8 0x04 = some .rdCmd ∧
    decodeTableWord 8 0x08 = some .rdStatus ∧ decodeTableWord 8 0x0C = some .rdErr ∧
    decodeTableWord 8 0x10 = some .rdErrCmd ∧ decodeTableWord 8 0x14 = some .rdLen ∧
    decodeTableWord 8 0x18 = some .rdType ∧ decodeTableWord 8 0x1C = some .rdTypeInfo := by decide

theorem test_decode_more_bus_read_keys :
    decodeTableWord 8 0x20 = some .rdCrcState ∧ decodeTableWord 8 0x24 = some .rdCrcResult ∧
    decodeTableWord 8 0x28 = some .rdCount ∧ decodeTableWord 8 0x2C = some .rdRxCrc ∧
    decodeTableWord 8 0x30 = some .rdOut ∧ decodeTableWord 8 0x34 = some (.rdRsvd 0x34) ∧
    decodeTableWord 8 0x38 = some (.rdRsvd 0x38) ∧ decodeTableWord 8 0x01 = none := by decide

theorem test_decode_bus_write_keys :
    decodeTableWord 8 0x40 = some (.wrIgnored 0x00 0) ∧ decodeTableWord 8 0x44 = some (.wrCmd 0) ∧
    decodeTableWord 8 0x70 = some (.wrIgnored 0x30 0) ∧ decodeTableWord 8 0x7C = some (.wrIgnored 0x3C 0) ∧
    decodeTableWord 8 0x46 = none ∧ decodeTableWord 8 0x80 = none := by decide

/-- R51: a comment, a character literal that holds a semicolon, and a raw word. -/
theorem test_assemble_lines :
    (assembleLine "CRC_BYTE 0x31 ; '1'".toList).toOption = some (some (.cmd32 0x02000031)) ∧
    (assembleLine "TX_BYTE ';'".toList).toOption = some (some (.cmd32 0x1100003B)) ∧
    (assembleLine ".word 0x02010000".toList).toOption = some (some (.cmd32 0x02010000)) ∧
    (assembleLine "rd OUT".toList).toOption = some (some (.read 0x30)) ∧
    (assembleLine "; a comment".toList).toOption = some none := by decide

/-- R51's assembly errors: an immediate above 255, and an immediate on an operand-less command. -/
theorem test_assembly_errors :
    (match assembleLine "TX_BYTE 256".toList with | .error e => e == .immediateRange | .ok _ => false) = true ∧
    (match assembleLine "NOP 1".toList with | .error e => e == .unexpectedImmediate | .ok _ => false) = true := by
  decide

/-! ### Steps -/

/-- The first step after reset runs the fetched word: P1's first CRC_BYTE. -/
theorem test_step_runs_fetched_word :
    nextHas (step (State.reset.withFetchWord 32 0x02000031)) (fun t => t.crcState == 0x7C231048 && t.pending == []) =
      true := by decide

/-- R35: a narrow access, a misaligned one and one outside the window are refused. -/
theorem test_bad_accesses_are_refused :
    refusedFor (step { idleState with pending := [.memRead 0x08 2] }) (.badAccess .badWidth) = true ∧
    refusedFor (step { idleState with pending := [.memRead 0x09 4] }) (.badAccess .misaligned) = true ∧
    refusedFor (step { idleState with pending := [.memWrite 0x40 4 0] }) (.badAccess .outsideWindow) = true := by
  decide

/-- R108, U11: no access, and a state with IDX != 0 in IDLE. -/
theorem test_other_refusals :
    refusedFor (step idleState) .runOver = true ∧
    refusedFor (step { idleState with idx := 1, pending := [.memRead 0 4] }) .illegalState = true := by decide

/-- A window at another BASE: BUS-4 at 0x1000. -/
theorem test_window_at_another_base :
    nextHas (step { State.resetWith { outDepth := 8, base := 0x1000 } with pending := [.memRead 0x1000 4] })
      (fun t => t.reads == [0x504E4701]) = true := by decide

/-! ### One step of each instruction -/

/-- CTL-10: NOP is not dropped and changes nothing. -/
theorem test_nop : nextHas (exec .nop errState) (fun t => t == errState) = true := by decide

/-- CTL-9 -/
theorem test_clrErr :
    nextHas (exec .clrErr errState) (fun t => errWord t == 0 && t.errCmd == 0 && statusWord t == 0x00100000) = true := by
  decide

/-- CTL-11 -/
theorem test_softReset :
    nextHas (exec .softReset txState)
      (fun t => statusWord t == 0x00100000 && t.crcState == 0xFFFFFFFF && typeInfo t.type == 0xE0 && t.len == 0) =
      true := by decide

/-- CTL-2: an illegal word raises ILLEGAL_CMD; CTL-7: while an error is pending it is dropped. -/
theorem test_wrCmd_illegal :
    nextHas (exec (.wrCmd 0x00000001) idleState) (fun t => errWord t == 0x80000001 && t.errCmd == 1) = true ∧
    nextHas (exec (.wrCmd 0x04000000) errState) (fun t => t == errState) = true := by decide

/-- CTL-8: a command is dropped while an error is pending. -/
theorem test_wrCmd_dropped : nextHas (exec (.wrCmd 0x02000031) errState) (fun t => t == errState) = true := by decide

/-- CRC-C3 -/
theorem test_crcInit :
    nextHas (exec .crcInit { idleState with crcState := 0x7C231048 })
      (fun t => t.crcState == 0xFFFFFFFF && crcResult t == 0) = true := by decide

/-- CRC-C5 -/
theorem test_crcInit_in_rx : nextHas (exec .crcInit (rxState .rxLen 0))
    (fun t => errWord t == 0x80000002 && t.mode == .idle) = true := by decide

/-- CRC-C2 -/
theorem test_crcByte :
    nextHas (exec (.crcByte 0xFF) idleState) (fun t => t.crcState == 0x00FFFFFF && crcResult t == 0xFF000000) = true := by
  decide

/-- CRC-C4: SEQ_ERROR aborts the frame and keeps CRC_STATE and the FIFO. -/
theorem test_crcByte_in_tx :
    nextHas (exec (.crcByte 0x01) txDoneState)
      (fun t => errWord t == 0x80000002 && t.mode == .idle && t.crcState == 0x51BD9F7D && t.outLevel == 8) = true := by
  decide

/-- LD-4 -/
theorem test_lenShift :
    nextHas (exec (.lenShift 0x9A) { idleState with len := 0x12345678 }) (fun t => t.len == 0x3456789A) = true := by
  decide

/-- LD-5 -/
theorem test_lenShift_in_tx :
    nextHas (exec (.lenShift 0x01) txDoneState) (fun t => errWord t == 0x80000002 && t.len == 0) = true := by decide

/-- LD-2 -/
theorem test_typeShift :
    nextHas (exec (.typeShift 0x41) { idleState with type := 0x49454E44 }) (fun t => t.type == 0x454E4441) = true := by
  decide

/-- TX-9's first step. -/
theorem test_txStart :
    nextHas (exec .txStart { idleState with len := 0xFFFFFFFF, type := 0x49444154 })
      (fun t => t.mode == .txData && t.crcState == 0xCA50F9E1 &&
        t.fifo == [0xFF, 0xFF, 0xFF, 0xFF, 0x49, 0x44, 0x41, 0x54]) = true := by decide +kernel

/-- TX-7: 12 unread bytes leave 4 free, fewer than 8. -/
theorem test_txStart_overflow :
    nextHas (exec .txStart { idleState with fifo := sixteen.take 12 })
      (fun t => errWord t == 0x80000003 && t.outLevel == 12) = true := by decide

/-- R75's example. -/
theorem test_txByte :
    nextHas (exec (.txByte 0x68) { txState with count := 0, crcState := 0x8B4959FD })
      (fun t => t.crcState == 0x80EE2E92 && t.count == 1 && t.fifo.getLast? == some 0x68) = true := by decide

/-- TX-2 on a full FIFO: TX_OVERRUN comes before OUT_OVERFLOW (R91). -/
theorem test_txByte_overrun_first :
    nextHas (exec (.txByte 0x41) { txDoneState with fifo := sixteen })
      (fun t => errWord t == 0x80000004 && t.errCmd == 0x11000041 && t.count == 0) = true := by decide

/-- TX-1 -/
theorem test_txEnd :
    nextHas (exec .txEnd txDoneState)
      (fun t => t.mode == .idle && t.doneOk && crcResult t == 0xAE426082 &&
        t.fifo == [0x00, 0x00, 0x00, 0x00, 0x49, 0x45, 0x4E, 0x44, 0xAE, 0x42, 0x60, 0x82]) = true := by decide

/-- TX-3 -/
theorem test_txEnd_underrun :
    nextHas (exec .txEnd txState)
      (fun t => errWord t == 0x80000005 && t.count == 1 && t.crcState == 0x80EE2E92 && t.outLevel == 9) = true := by
  decide

/-- R80's example. -/
theorem test_rxStart :
    nextHas (exec .rxStart { idleState with len := 5, type := 0x49454E44, doneOk := true, fifo := [0x11] })
      (fun t => statusWord t == 0x00100102 && t.len == 0 && t.type == 0 && t.crcState == 0xFFFFFFFF) = true := by decide

/-- RX-8: the fourth length byte. -/
theorem test_rxByte_length :
    nextHas (exec (.rxByte 0x78) { rxState .rxLen 3 with len := 0x123456 })
      (fun t => t.mode == .rxType && t.len == 0x12345678 && t.idx == 0) = true := by decide

/-- RX-11: the fourth CRC byte differs. -/
theorem test_rxByte_mismatch :
    nextHas (exec (.rxByte 0x83) rxLastState)
      (fun t => errWord t == 0x80000007 && t.errCmd == 0x21000083 && t.rxCrc == 0xAE426083 &&
        crcResult t == 0xAE426082 && t.idx == 0) = true := by decide

/-- P4's last RX_BYTE. -/
theorem test_rxByte_match :
    nextHas (exec (.rxByte 0x82) rxLastState)
      (fun t => statusWord t == 0x00100080 && t.rxCrc == 0xAE426082 && t.errValid == false) = true := by decide

/-- RX-4 -/
theorem test_rxEnd_eof :
    nextHas (exec .rxEnd (rxState .rxLen 0)) (fun t => errWord t == 0x80000006 && t.errCmd == 0x22000000) = true := by
  decide

/-- RX-2 -/
theorem test_rxEnd_idle : nextHas (exec .rxEnd idleState) (fun t => t == idleState) = true := by decide

/-- BUS-4, BUS-5 and BUS-8. -/
theorem test_plain_reads :
    nextHas (exec .rdId errState) (fun t => t.reads == [0x504E4701]) = true ∧
    nextHas (exec .rdStatus (State.resetWith { outDepth := 255, base := 0 })) (fun t => t.reads == [0x00FF0000]) = true ∧
    nextHas (exec .rdTypeInfo idleState) (fun t => t.reads == [0x000000E0]) = true ∧
    nextHas (exec .rdErr errState) (fun t => t.reads == [0x80000001]) = true := by decide

/-- The registers TX-3 and R81's example leave, read back. -/
theorem test_data_register_reads :
    nextHas (exec .rdErrCmd errState) (fun t => t.reads == [0x03000000]) = true ∧
    nextHas (exec .rdLen txState) (fun t => t.reads == [2]) = true ∧
    nextHas (exec .rdType txState) (fun t => t.reads == [0x72755374]) = true ∧
    nextHas (exec .rdCrcState txDoneState) (fun t => t.reads == [0x51BD9F7D]) = true ∧
    nextHas (exec .rdCrcResult txDoneState) (fun t => t.reads == [0xAE426082]) = true ∧
    nextHas (exec .rdCount txState) (fun t => t.reads == [1]) = true ∧
    nextHas (exec .rdRxCrc rxLastState) (fun t => t.reads == [0x00AE4260]) = true := by decide

/-- BUS-1 and BUS-7's fifth read. -/
theorem test_rdOut :
    nextHas (exec .rdOut idleState) (fun t => t.reads == [0x00000000]) = true ∧
    nextHas (exec .rdOut { errState with fifo := [0x49, 0x45] }) (fun t => t.reads == [0x149] && t.fifo == [0x45]) =
      true := by decide

/-- BUS-2, BUS-3 and BUS-6. -/
theorem test_inert_accesses :
    nextHas (exec .rdCmd errState) (fun t => t.reads == [0]) = true ∧
    nextHas (exec (.rdRsvd 0x34) idleState) (fun t => t.reads == [0]) = true ∧
    nextHas (exec (.wrIgnored 0x14 0x12345678) idleState) (fun t => t == idleState) = true := by decide

/-- CRC-1 to CRC-7, and the check value CRC-11. -/
theorem test_crc_vectors :
    crcStep 0xFFFFFFFF 0x00 = 0x2DFD1072 ∧ crcStep 0x00000000 0x01 = 0x77073096 ∧
    crcStep 0x12345678 0xAB = 0x1FC8B738 ∧
    crc32 [0x31, 0x32, 0x33, 0x34, 0x35, 0x36, 0x37, 0x38, 0x39] = 0xCBF43926 := by decide +kernel

/-- CT-2, CT-3, CT-9, CT-10, CT-11 and CT-13. -/
theorem test_type_info_vectors :
    typeInfo 0x52755374 = 0x000003BF ∧ typeInfo 0x52757374 = 0x0000013F ∧ typeInfo 0x52753174 = 0x0000012B ∧
    typeInfo 0x415A617A = 0x0000017F ∧ typeInfo 0x405B607B = 0x00000160 ∧ typeInfo 0xFFFFFFFF = 0x00000100 := by decide

/-- S2, S9: the IEND chunk serialized, and a truncated buffer. -/
theorem test_reference_functions :
    chunkSerialize 0x49454E44 [] = [0x00, 0x00, 0x00, 0x00, 0x49, 0x45, 0x4E, 0x44, 0xAE, 0x42, 0x60, 0x82] ∧
    chunkParse [0x00, 0x00, 0x00, 0x05, 0x72, 0x75, 0x53, 0x74, 0x68, 0x65] = .error .unexpectedEof := by decide +kernel

/-- R16's table through R15: MODE as STATUS shows it, OUT_DEPTH 16 and the FIFO empty. -/
theorem test_status_modes :
    statusWord (rxState .rxType 3) = 0x00100033 ∧ statusWord (rxState .rxData 0) = 0x00100004 ∧
    statusWord (rxState .rxCrc 1) = 0x00100015 ∧ statusWord txDoneState = 0x00100801 := by decide

/-- R100 on an image of IEND alone (P2's bytes after the signature), and the host's stop where an error is pending. -/
theorem test_serializeImage :
    (serializeImage [(0x49454E44, [])] idleState).toOption.map Prod.fst =
      some [0x89, 0x50, 0x4E, 0x47, 0x0D, 0x0A, 0x1A, 0x0A,
        0x00, 0x00, 0x00, 0x00, 0x49, 0x45, 0x4E, 0x44, 0xAE, 0x42, 0x60, 0x82] ∧
    (serializeImage [(0x49454E44, [])] errState).toOption.isNone = true := by decide +kernel

/-- R101 on the same image, and on one cut by a byte: UNEXPECTED_EOF, code 6. -/
theorem test_parseImage :
    let image : List Byte := [0x89, 0x50, 0x4E, 0x47, 0x0D, 0x0A, 0x1A, 0x0A,
      0x00, 0x00, 0x00, 0x00, 0x49, 0x45, 0x4E, 0x44, 0xAE, 0x42, 0x60, 0x82]
    (match parseImage image idleState with
      | some (.ok cs) => cs.map FoundChunk.type == [0x49454E44]
      | some (.error _) => false
      | none => false) = true ∧
    (match parseImage (image.take 19) idleState with
      | some (.error e) => e == 6
      | some (.ok _) => false
      | none => false) = true := by decide +kernel

/-! ### Witnesses: the hypotheses of each statement can be met, clause by clause -/

theorem witness_DecodeEncodeRoundTrip :
    (Instr.rdRsvd 0x3C).wellFormed = true ∧ (Instr.wrIgnored 0x3C 0xFFFFFFFF).wellFormed = true := by decide

theorem witness_EncodeDecodeRoundTrip :
    decode (.cmd32 0x210000FF) = .ok (.rxByte 0xFF) ∧ decode (.read 0x3C) = .ok (.rdRsvd 0x3C) ∧
    decode (.write 0x00 5) = .ok (.wrIgnored 0x00 5) := by decide

theorem witness_DecoderAgreesWithTable :
    (⟨"RX_BYTE", 0x21000000, 0xFFFFFF00⟩ : CmdRow) ∈ cmdTable ∧ decodeCmd 0x210000FF = .ok (.rxByte 0xFF) ∧
    (0x210000FF : Word) &&& 0xFFFFFF00 = 0x21000000 := by decide

theorem witness_IllegalWordsAreThreeClasses :
    decodeCmd 0x22000001 = .error .unexpectedOperand ∧ decodeCmd 0x21010000 = .error .reservedField ∧
    decodeCmd 0xF2000000 = .error .unassignedOpc ∧ idleState.errValid = false := by decide

theorem witness_BusAccessesDecodeByTable :
    (0x3C#6).toNat % 4 = 0 ∧ 0x3C#6 ≠ 0x04#6 ∧ (0x3F#6).toNat % 4 ≠ 0 ∧ (8 : Nat) ≠ 4 ∧
    (let c : Config := { outDepth := 8, base := 64 }
     63 < c.base ∧ c.base + 64 ≤ 128 ∧ c.base + (0x3F#6).toNat = 127) := by decide

/-- A legal state whose next access is the last word of the window, and one whose next access is a command. -/
theorem witness_StepPerformsNextAccess :
    ({ errState with pending := [.memRead 0x3C 4] } : State).legal = true ∧
    decodeAccess errState.cfg (.memRead 0x3C 4) = .ok (.rdRsvd 0x3C) := by decide

theorem witness_StepRunsEncodedInstruction :
    ({ txState with pending := [accessOf txState.cfg (.txByte 0x65)] } : State).legal = true ∧
    (Instr.txByte 0x65).wellFormed = true ∧ accessOf txState.cfg (.txByte 0x65) = .memWrite 0x04 4 0x11000065 := by
  decide

/-- Each disjunct of the hypothesis, at BASE = 64. -/
theorem witness_AccessOutsideInterfaceIsRefused :
    let s := { State.resetWith { outDepth := 8, base := 64 } with pending := [.memRead 63 4] }
    s.legal = true ∧ (63 < s.cfg.base) ∧ (s.cfg.base + 64 ≤ 128) ∧ ((127 - s.cfg.base) % 4 ≠ 0) ∧ (2 : Nat) ≠ 4 := by
  decide

theorem witness_AccessInWindowIsPerformed :
    ({ idleState with pending := [.memWrite 0x3C 4 9] } : State).legal = true ∧ (0x3C : Nat) < 64 ∧ 0x3C % 4 = 0 := by
  decide

theorem witness_NoStepOutsideARun :
    ({ idleState with count := 1, mode := .rxData } : State).legal = false ∧ idleState.legal = true ∧
    idleState.pending = [] := by decide

theorem witness_BlockInv_reset : BlockInv State.reset := ⟨by decide, by decide⟩

/-- The invariant with COUNT at LEN in TX_DATA, and with an error pending. -/
theorem witness_BlockInv_inside_a_frame : BlockInv txDoneState ∧ BlockInv errState ∧ BlockInv rxLastState :=
  ⟨⟨by decide, by decide⟩, ⟨by decide, by decide⟩, ⟨by decide, by decide⟩⟩

theorem witness_RunPerformsHostSequence :
    let s := { idleState with pending := [.memWrite 0x04 4 0x01000000, .memRead 0x24 4, .memRead 0x00 4] }
    BlockInv s ∧ s.pending = [Instr.crcInit, .rdCrcResult].map (accessOf s.cfg) ++ [.memRead 0x00 4] ∧
      ∀ i ∈ [Instr.crcInit, .rdCrcResult], i.wellFormed = true :=
  ⟨⟨by decide, by decide⟩, by decide⟩

/-- The bounds of OUT_DEPTH. -/
theorem witness_ResetHasInvariant : 8 ≤ 8 ∧ 255 ≤ 255 ∧ 0x1000 % 64 = 0 := by decide

theorem witness_StepKeepsInvariant :
    let s := { txState with pending := [.memWrite 0x04 4 0x11000065] }
    BlockInv s ∧ nextHas (step s) (fun t => t.count == 2) = true :=
  ⟨⟨by decide, by decide⟩, by decide⟩

theorem witness_StepKeepsErrorIdle :
    let s := { errState with pending := [.memRead 0x30 4] }
    BlockInv s ∧ s.errValid = true ∧ s.mode = .idle ∧ s.idx = 0 ∧ s.doneOk = false ∧
      nextHas (step s) (fun t => t.errValid) = true :=
  ⟨⟨by decide, by decide⟩, by decide⟩

theorem witness_WrCmdDispatches :
    decodeCmd 0x020000FF = .ok (.crcByte 0xFF) ∧ errState.errValid = true ∧ idleState.errValid = false ∧
    Cmd.crcByte 0xFF ∉ ([.nop, .clrErr, .softReset] : List Cmd) ∧ decodeCmd 0x03000000 = .error .unassignedOpc := by
  decide

theorem witness_PendingErrorDropsCommands :
    errState.errValid = true ∧ isBusRead .rdOut = true ∧ (0x00000001 : Word) ≠ 0x00000000 := by decide

theorem witness_ErrorCommitRule : idleState.errValid = false ∧ errState.errValid = true := by decide

theorem witness_NopRule : (0x000000FF : Word).extractLsb' 24 8 = 0x00#8 ∧ (0x000000FF : Word) ≠ 0 := by decide

/-- A cell of each verdict of the matrix. -/
theorem witness_ModeLegalityMatrix :
    legality .txEnd idleState.mode = .seq ∧ legality .rxEnd (rxState .rxCrc 3).mode = .eof ∧
    legality .rxEnd idleState.mode = .nop ∧ legality .txStart idleState.mode = .ok ∧
    idleState.errValid = false ∧ (rxState .rxCrc 3).errValid = false := by decide

/-- The two outcomes of the priority list, and the boundary where two errors meet (COUNT = LEN and a full FIFO). -/
theorem witness_ErrorPriority :
    errorOf 0x11000041 { txDoneState with fifo := sixteen } = some .txOverrun ∧
    errorOf 0x11000065 txState = none ∧ errorOf 0x21000083 rxLastState = some .crcMismatch ∧
    errorOf 0x12000000 { txDoneState with fifo := sixteen } = some .outOverflow := by decide

theorem witness_ErrorsArePrecise :
    rxLastState.errValid = false ∧
    nextHas (exec (.rxByte 0x83) rxLastState) (fun t => t.errValid && t.errCode == 7) = true ∧
    nextHas (exec .txStart txState) (fun t => t.errValid && t.errCode == 2) = true := by decide

theorem witness_FirstErrorIsKept :
    errState.errValid = true ∧ nextHas (exec (.wrCmd 0x04000000) errState) (fun t => t.errValid) = true := by decide

/-- The four situations of a command that IDLE alone admits: dropped, SEQ_ERROR, completed (CRC_INIT, CRC_BYTE,
TYPE_SHIFT, LEN_SHIFT, RX_START, and the loads and the standalone CRC). -/
theorem witness_IdleCommandRules :
    errState.errValid = true ∧ (txState.errValid = false ∧ txState.mode ≠ .idle) ∧
    (idleState.errValid = false ∧ idleState.mode = .idle) ∧ idleState.crcState = 0xFFFFFFFF := by decide

theorem witness_CrcDetectsChangedByte : (0x00 : Byte) ≠ 0x80 ∧ (7 : Nat) < 8 := by decide

/-- TX_START at the boundary: 8 free and 7 free. -/
theorem witness_TxStartRule :
    ({ idleState with fifo := sixteen.take 8 } : State).free = 8 ∧
    ({ idleState with fifo := sixteen.take 9 } : State).free = 7 ∧ idleState.mode = .idle := by decide

/-- TX_BYTE: COUNT = LEN, a full FIFO, and one byte free. -/
theorem witness_TxByteRule :
    (txDoneState.mode = .txData ∧ txDoneState.count = txDoneState.len) ∧
    (txState.mode = .txData ∧ txState.count ≠ txState.len ∧ txState.errValid = false ∧ txState.legal = true) ∧
    ({ txState with fifo := sixteen } : State).free = 0 ∧ ({ txState with fifo := sixteen.take 15 } : State).free = 1 := by
  decide

/-- TX_END: COUNT != LEN, 3 bytes free, and 4 bytes free. -/
theorem witness_TxEndRule :
    txState.count ≠ txState.len ∧ txDoneState.count = txDoneState.len ∧
    ({ txDoneState with fifo := sixteen.take 13 } : State).free = 3 ∧
    ({ txDoneState with fifo := sixteen.take 12 } : State).free = 4 := by decide

/-- P2 with its first read before TX_END: the space suffices, and the commands are FRAME's. -/
theorem witness_FrameEmitsSerialization :
    let is := len32 0 ++ type4 0x49454E44 ++ [.txStart, .rdOut, .txEnd, .rdOut]
    is.filter (fun i => i != .rdOut) = frame 0x49454E44 [] ∧ spaceSuffices is idleState = true := by decide

theorem witness_SerializedImageReachesHost :
    idleState.fifo = [] ∧ 8 ≤ idleState.cfg.outDepth ∧ idleState.mode = .idle ∧
    (∀ c ∈ [((0x49454E44 : Word), ([] : List Byte))], c.2.length < 2 ^ 32) ∧ idleState.errValid = false ∧
    errState.errValid = true ∧ [((0x49454E44 : Word), ([] : List Byte))] ≠ [] := by decide

theorem witness_ImageParseFindsChunks :
    idleState.mode = .idle ∧ idleState.errValid = false ∧
    (∀ c ∈ [((0x72755374 : Word), ([0x68] : List Byte)), (0x49454E44, [])], c.2.length < 2 ^ 32) := by decide

/-- Every clause of RX_BYTE: each field's first and last byte, LEN zero and not, the data bytes before the last and the
last, and a CRC that matches and one that does not. -/
theorem witness_RxByteRule :
    (rxState .rxLen 3).idx = 3 ∧ (rxState .rxLen 2).idx ≠ 3 ∧
    ((rxState .rxType 3).len = 0 ∧ ({ rxState .rxType 3 with len := 1 } : State).len ≠ 0) ∧
    (({ rxState .rxData 0 with len := 1 } : State).count + 1 = 1 ∧ ({ rxState .rxData 0 with len := 2 } : State).count + 1 ≠ 2) ∧
    (rxLastState.rxCrc.extractLsb' 0 24 ++ 0x82#8 : BitVec 32) = rxLastState.crcState ^^^ 0xFFFFFFFF ∧
    (rxLastState.rxCrc.extractLsb' 0 24 ++ 0x83#8 : BitVec 32) ≠ rxLastState.crcState ^^^ 0xFFFFFFFF ∧
    rxLastState.mode = .rxCrc ∧ rxLastState.idx = 3 ∧ rxLastState.errValid = false := by decide

theorem witness_RxEndRule :
    errState.errValid = true ∧ idleState.mode = .idle ∧ txState.mode = .txData ∧ (rxState .rxData 0).mode = .rxData := by
  decide

/-- The three clauses of the checker's verdict: IEND whole, with its last byte changed, and cut by one byte. -/
theorem witness_CheckerAgreesWithParse :
    (idleState.mode = .idle ∧ idleState.errValid = false) ∧
    ((chunkSerialize 0x49454E44 []).set 11 0x83).getLast? = some 0x83 ∧
    (match chunkParse (chunkSerialize 0x49454E44 []) with | .ok c => c.rest == [] | .error _ => false) = true ∧
    chunkParse ((chunkSerialize 0x49454E44 []).set 11 0x83) = .error .crcMismatch ∧
    ((chunkSerialize 0x49454E44 []).set 11 0x83).length = 12 + declaredLength ((chunkSerialize 0x49454E44 []).set 11 0x83) ∧
    ((chunkSerialize 0x49454E44 []).take 11).length < 12 + declaredLength ((chunkSerialize 0x49454E44 []).take 11) := by
  decide +kernel

/-- The first type byte and the last CRC byte. -/
theorem witness_CheckerCatchesChangedByte :
    (chunkSerialize 0x49454E44 [])[4]? ≠ some 0x4A ∧ (chunkSerialize 0x49454E44 [])[11]? ≠ some 0x83 := by decide +kernel

/-- The bound of OUT_LEVEL met with equality, and a state of each mode. -/
theorem witness_StatusFields :
    ({ idleState with fifo := sixteen } : State).outLevel ≤ idleState.cfg.outDepth ∧ idleState.cfg.outDepth ≤ 255 ∧
    idleState.mode = .idle ∧ txState.mode = .txData ∧
    ∀ m ∈ [Mode.rxLen, .rxType, .rxData, .rxCrc],
      (rxState m 0).mode = m ∧ (rxState m 0).outLevel ≤ (rxState m 0).cfg.outDepth := by
  decide

theorem witness_OutReadRule : idleState.fifo = [] ∧ txDoneState.fifo = 0x00 :: txDoneState.fifo.tail := by decide

theorem witness_InertAccesses : (0x00#6).toNat % 4 = 0 ∧ 0x00#6 ≠ 0x04#6 := by decide

/-- A next state that differs from the one before in each element the whole-machine rules speak of. -/
theorem witness_WholeMachineRules :
    nextHas (exec (.wrCmd 0x11000065) txState)
      (fun t => t.fifo != txState.fifo && t.crcState != txState.crcState && t.count != txState.count) = true ∧
    nextHas (exec .txEnd txDoneState) (fun t => t.doneOk) = true ∧
    nextHas (exec .rdOut txDoneState) (fun t => t.fifo == txDoneState.fifo.tail) = true ∧
    nextHas (exec (.rxByte 0x82) rxLastState) (fun t => t.rxCrc != rxLastState.rxCrc && t.doneOk) = true ∧
    nextHas (exec .rxStart { idleState with doneOk := true, len := 1, type := 1 })
      (fun t => !t.doneOk && t.len == 0 && t.type == 0) = true ∧
    isBusRead .rdOut = true ∧ isBusRead .txEnd = false := by decide

theorem witness_DoneOkAndBaseDecideNothing : Instr.txEnd ≠ .rdStatus := by decide

end Sys2Proof.Tests
end

section
/-! SUPPORT. What an instruction can do, said once: `effect_of_exec` turns every `exec i s = .next t` into one of the
cases of `Effect`, guards included. A rule about the whole machine is a case analysis on it. -/

namespace Sys2Proof.Machine

/-! ### `nextInField` counts bytes and moves the mode, and keeps the rest -/

@[simp] theorem nextInField_fifo (m : Mode) (s : State) : (nextInField m s).fifo = s.fifo := by
  obtain ⟨-, h⟩ | ⟨-, h⟩ := nextInField_cases m s <;> rw [h]

@[simp] theorem nextInField_doneOk (m : Mode) (s : State) : (nextInField m s).doneOk = s.doneOk := by
  obtain ⟨-, h⟩ | ⟨-, h⟩ := nextInField_cases m s <;> rw [h]

/-! ### The dispatch of command words (R53) -/

/-- A write of a legal word to CMD is its command (R53). -/
theorem exec_wrCmd_of_ok {w : Word} {c : Cmd} (h : decodeCmd w = .ok c) (s : State) :
    exec (.wrCmd w) s = exec c.toInstr s := by
  cases c <;> simp only [exec, execWrCmd, h, Cmd.toInstr]

/-- A write of an illegal word to CMD takes ILLEGAL_CMD, or is dropped (R53, R54). -/
theorem exec_wrCmd_of_error {w : Word} {e : IllegalWord} (h : decodeCmd w = .error e) (s : State) :
    exec (.wrCmd w) s = .next (unlessPending s (raise .illegalCmd w s)) := by
  simp only [exec, execWrCmd, h]

theorem performed_wrCmd_of_ok {w : Word} {c : Cmd} (h : decodeCmd w = .ok c) : performed (.wrCmd w) = c.toInstr := by
  simp only [performed, h]

theorem performed_wrCmd_of_error {w : Word} {e : IllegalWord} (h : decodeCmd w = .error e) :
    performed (.wrCmd w) = .wrCmd w := by
  simp only [performed, h]

/-- A command is no bus read. -/
@[simp] theorem isBusRead_toInstr (c : Cmd) : isBusRead c.toInstr = false := by
  cases c <;> rfl

theorem toInstr_ne_wrCmd (c : Cmd) (w : Word) : c.toInstr ≠ .wrCmd w := by
  cases c <;> nofun

/-- Only the read of OUT performs RD_OUT. -/
theorem eq_rdOut_of_performed {i : Instr} (h : performed i = .rdOut) : i = .rdOut := by
  cases i
  case wrCmd w =>
    cases hw : decodeCmd w with
    | error e => rwa [performed_wrCmd_of_error hw] at h
    | ok c =>
      rw [performed_wrCmd_of_ok hw] at h
      exact absurd (isBusRead_toInstr c) (by rw [h]; decide)
  all_goals exact h

/-! ### What an instruction can do -/

/-- What the performed instruction `p` can make of `s`, case by case: nothing changed, a value read, an error taken, or
the one effect its rule gives it, with the mode and the conditions the rule puts on it. -/
inductive Effect (s : State) : Instr → State → Prop
  | unchanged (p : Instr) : Effect s p s
  | observed (p : Instr) (v : Word) (hp : isBusRead p = true) (hne : p ≠ .rdOut) : Effect s p (observe v s)
  | popped : Effect s .rdOut (observe (outWord s) (dropHead s))
  | errorCleared : Effect s .clrErr (clearError s)
  | reset : Effect s .softReset (resetBlock s)
  | raised (p : Instr) (e : ErrKind) (w : Word) (hv : s.errValid = false) : Effect s p (raise e w s)
  | crcInit (hv : s.errValid = false) (hm : s.mode = .idle) : Effect s .crcInit { s with crcState := crcSeed }
  | crcByte (b : Byte) (hv : s.errValid = false) (hm : s.mode = .idle) :
      Effect s (.crcByte b) { s with crcState := crcStep s.crcState b }
  | lenShift (b : Byte) (hv : s.errValid = false) (hm : s.mode = .idle) :
      Effect s (.lenShift b) { s with len := shiftIn s.len b }
  | typeShift (b : Byte) (hv : s.errValid = false) (hm : s.mode = .idle) :
      Effect s (.typeShift b) { s with type := shiftIn s.type b }
  | txStart (hv : s.errValid = false) (hm : s.mode = .idle) (hfree : 8 ≤ s.free) :
      Effect s .txStart
        { push (be32 s.len ++ be32 s.type) s with
          crcState := crcFold crcSeed (be32 s.type), count := 0#32, doneOk := false, mode := .txData }
  | txByte (b : Byte) (hv : s.errValid = false) (hm : s.mode = .txData) (hcount : s.count ≠ s.len)
      (hfree : 1 ≤ s.free) :
      Effect s (.txByte b) { push [b] s with crcState := crcStep s.crcState b, count := s.count + 1#32 }
  | txEnd (hv : s.errValid = false) (hm : s.mode = .txData) (hcount : s.count = s.len) (hfree : 4 ≤ s.free) :
      Effect s .txEnd { push (be32 (crcFinal s.crcState)) s with mode := .idle, doneOk := true }
  | rxStart (hv : s.errValid = false) (hm : s.mode = .idle) :
      Effect s .rxStart
        { s with
          len := 0#32, type := 0#32, rxCrc := 0#32, count := 0#32, crcState := crcSeed, idx := 0#2, doneOk := false,
          mode := .rxLen }
  | rxLenByte (b : Byte) (hv : s.errValid = false) (hm : s.mode = .rxLen) :
      Effect s (.rxByte b) (nextInField .rxType { s with len := shiftIn s.len b })
  | rxTypeByte (b : Byte) (hv : s.errValid = false) (hm : s.mode = .rxType) :
      Effect s (.rxByte b)
        (nextInField (if s.len = 0#32 then .rxCrc else .rxData)
          { s with type := shiftIn s.type b, crcState := crcStep s.crcState b })
  | rxDataByte (b : Byte) (hv : s.errValid = false) (hm : s.mode = .rxData) :
      Effect s (.rxByte b)
        { s with
          crcState := crcStep s.crcState b, count := s.count + 1#32,
          mode := if s.count + 1#32 = s.len then .rxCrc else .rxData }
  | rxCrcByte (b : Byte) (hv : s.errValid = false) (hm : s.mode = .rxCrc) (hidx : s.idx ≠ 3#2) :
      Effect s (.rxByte b) { s with rxCrc := shiftIn s.rxCrc b, idx := s.idx + 1#2 }
  | rxCrcMatch (b : Byte) (hv : s.errValid = false) (hm : s.mode = .rxCrc) (hidx : s.idx = 3#2)
      (hcrc : shiftIn s.rxCrc b = crcFinal s.crcState) :
      Effect s (.rxByte b) { s with rxCrc := shiftIn s.rxCrc b, idx := 0#2, mode := .idle, doneOk := true }
  | rxCrcMismatch (b : Byte) (hv : s.errValid = false) (hm : s.mode = .rxCrc) (hidx : s.idx = 3#2)
      (hcrc : shiftIn s.rxCrc b ≠ crcFinal s.crcState) :
      Effect s (.rxByte b)
        (raise .crcMismatch (encodeCmd (.rxByte b)) { s with rxCrc := shiftIn s.rxCrc b, idx := 0#2 })

/-- A command that R54 drops has an effect if its rule has one where no error is pending. -/
theorem effect_unlessPending {s t : State} {p : Instr} (h : s.errValid = false → Effect s p t) :
    Effect s p (unlessPending s t) := by
  obtain ⟨-, h'⟩ | ⟨hv, h'⟩ := unlessPending_cases s t <;> rw [h']
  exacts [.unchanged p, h hv]

/-- A check that takes an error before a rule has its effect (R91). -/
theorem effect_raise_or {s t : State} {p : Instr} {c : Prop} [Decidable c] {e : ErrKind} {w : Word}
    (hv : s.errValid = false) (h : ¬c → Effect s p t) : Effect s p (if c then raise e w s else t) := by
  split
  · exact .raised p e w hv
  · exact h ‹_›

/-- A rule behind the check of its mode (R89) is performed in that mode. -/
theorem effect_of_mode {s t : State} {p : Instr} {m : Mode} {w : Word} (hv : s.errValid = false)
    (h : s.mode = m → Effect s p t) : Effect s p (if s.mode ≠ m then raise .seqError w s else t) :=
  effect_raise_or hv fun hm => h (not_not.1 hm)

/-- The effects of RX_BYTE, mode by mode (R81). -/
theorem effect_of_execRxByte {b : Byte} {s t : State} (h : execRxByte b s = .next t) : Effect s (.rxByte b) t := by
  obtain rfl := Host.Outcome.next.inj h
  refine effect_unlessPending fun hv => ?_
  cases hm : s.mode with
  | idle => exact .raised _ _ _ hv
  | txData => exact .raised _ _ _ hv
  | rxLen => exact .rxLenByte b hv hm
  | rxType => exact .rxTypeByte b hv hm
  | rxData => simpa only [rxDataByte, hm] using Effect.rxDataByte b hv hm
  | rxCrc =>
    simp only [rxCrcByte]
    split
    · split
      · exact .rxCrcMatch b hv hm ‹_› ‹_›
      · exact .rxCrcMismatch b hv hm ‹_› ‹_›
    · exact .rxCrcByte b hv hm ‹_›

/-- RX_END takes an error or does nothing (R82). -/
theorem effect_of_execRxEnd {s t : State} (h : execRxEnd s = .next t) : Effect s .rxEnd t := by
  obtain rfl := Host.Outcome.next.inj h
  refine effect_unlessPending fun hv => ?_
  cases s.mode
  case idle => exact .unchanged _
  all_goals exact .raised _ _ _ hv

/-- What an instruction that is no write to CMD can do, rule by rule (R56 to R87). -/
theorem effect_of_exec_of_ne_wrCmd {i : Instr} {s t : State} (hi : ∀ w, i ≠ .wrCmd w) (h : exec i s = .next t) :
    Effect s i t := by
  cases i
  case wrCmd w => exact absurd rfl (hi w)
  all_goals obtain rfl := Host.Outcome.next.inj h
  case nop => exact .unchanged _
  case crcInit => exact effect_unlessPending fun hv => effect_of_mode hv (.crcInit hv)
  case crcByte b => exact effect_unlessPending fun hv => effect_of_mode hv (.crcByte b hv)
  case lenShift b => exact effect_unlessPending fun hv => effect_of_mode hv (.lenShift b hv)
  case typeShift b => exact effect_unlessPending fun hv => effect_of_mode hv (.typeShift b hv)
  case txStart =>
    exact effect_unlessPending fun hv => effect_of_mode hv fun hm =>
      effect_raise_or hv fun hfree => .txStart hv hm (Nat.le_of_not_lt hfree)
  case txByte b =>
    exact effect_unlessPending fun hv => effect_of_mode hv fun hm => effect_raise_or hv fun hcount =>
      effect_raise_or hv fun hfree => .txByte b hv hm hcount (Nat.le_of_not_lt hfree)
  case txEnd =>
    exact effect_unlessPending fun hv => effect_of_mode hv fun hm => effect_raise_or hv fun hcount =>
      effect_raise_or hv fun hfree => .txEnd hv hm (not_not.1 hcount) (Nat.le_of_not_lt hfree)
  case rxStart => exact effect_unlessPending fun hv => effect_of_mode hv (.rxStart hv)
  case rxByte b => exact effect_of_execRxByte rfl
  case rxEnd => exact effect_of_execRxEnd rfl
  case clrErr => exact .errorCleared
  case softReset => exact .reset
  case rdOut => exact .popped
  case wrIgnored off data => exact .unchanged _
  -- the bus reads without a side effect
  all_goals exact .observed _ _ rfl nofun

/-- What an instruction can do: one of the effects of the rule it performs (R53 to R87). -/
theorem effect_of_exec {i : Instr} {s t : State} (h : exec i s = .next t) : Effect s (performed i) t := by
  cases i
  case wrCmd w =>
    cases hw : decodeCmd w with
    | ok c =>
      rw [exec_wrCmd_of_ok hw] at h
      rw [performed_wrCmd_of_ok hw]
      exact effect_of_exec_of_ne_wrCmd (toInstr_ne_wrCmd c) h
    | error e =>
      rw [exec_wrCmd_of_error hw] at h
      obtain rfl := Host.Outcome.next.inj h
      exact effect_unlessPending fun hv => .raised _ _ _ hv
  all_goals exact effect_of_exec_of_ne_wrCmd nofun h

/-- DONE_OK is kept, or set by the end of a frame, or cleared by the start of one, by SOFT_RESET or by an error commit
(R28). -/
theorem Effect.doneOk_cases {p : Instr} {s t : State} (h : Effect s p t) :
    t.doneOk = s.doneOk ∨
    (t.doneOk = true ∧ (p = .txEnd ∨ (s.mode = .rxCrc ∧ ∃ b, p = .rxByte b))) ∨
    (t.doneOk = false ∧
      (p = .txStart ∨ p = .rxStart ∨ p = .softReset ∨ (s.errValid = false ∧ t.errValid = true))) := by
  cases h with
  | txEnd => exact .inr (.inl ⟨rfl, .inl rfl⟩)
  | rxCrcMatch b _ hm => exact .inr (.inl ⟨rfl, .inr ⟨hm, b, rfl⟩⟩)
  | txStart => exact .inr (.inr ⟨rfl, .inl rfl⟩)
  | rxStart => exact .inr (.inr ⟨rfl, .inr (.inl rfl)⟩)
  | reset => exact .inr (.inr ⟨rfl, .inr (.inr (.inl rfl))⟩)
  | raised _ _ _ hv => exact .inr (.inr ⟨rfl, .inr (.inr (.inr ⟨hv, rfl⟩))⟩)
  | rxCrcMismatch _ hv => exact .inr (.inr ⟨rfl, .inr (.inr (.inr ⟨hv, rfl⟩))⟩)
  | rxLenByte | rxTypeByte => exact .inl (nextInField_doneOk ..)
  | _ => exact .inl rfl

/-- The FIFO is kept, or TX_START, TX_BYTE or TX_END pushes on it, or RD_OUT pops it, or SOFT_RESET empties it (R27). -/
theorem Effect.fifo_cases {p : Instr} {s t : State} (h : Effect s p t) :
    t.fifo = s.fifo ∨
    ((∃ bs, t.fifo = s.fifo ++ bs) ∧ (p = .txStart ∨ (∃ b, p = .txByte b) ∨ p = .txEnd)) ∨
    (t.fifo = s.fifo.tail ∧ p = .rdOut) ∨
    (t.fifo = [] ∧ p = .softReset) := by
  cases h with
  | txStart => exact .inr (.inl ⟨⟨_, rfl⟩, .inl rfl⟩)
  | txByte b => exact .inr (.inl ⟨⟨_, rfl⟩, .inr (.inl ⟨b, rfl⟩)⟩)
  | txEnd => exact .inr (.inl ⟨⟨_, rfl⟩, .inr (.inr rfl)⟩)
  | popped => exact .inr (.inr (.inl ⟨rfl, rfl⟩))
  | reset => exact .inr (.inr (.inr ⟨rfl, rfl⟩))
  | rxLenByte | rxTypeByte => exact .inl (nextInField_fifo ..)
  | _ => exact .inl rfl

end Sys2Proof.Machine
end

section
/-! SUPPORT. The layout of STATUS and the combinational registers after reset. -/

namespace Sys2Proof.Machine

/-! ### STATUS bit by bit (R15) -/

/-- A flag's word has the flag at its own bit and 0 elsewhere. -/
theorem getElem_flagAt (f : Bool) (k : Nat) {j : Nat} (hj : j < 32) : (flagAt f k)[j] = (f && decide (j = k)) := by
  simp only [flagAt, BitVec.getElem_shiftLeft, BitVec.getElem_setWidth, BitVec.getLsbD_ofBool]
  obtain hlt | rfl | hgt := lt_trichotomy j k
  · simp [hlt, hlt.ne]
  · simp
  · simp [hgt.not_gt, hgt.ne', Nat.sub_ne_zero_of_lt hgt]

/-- Bit `j` of STATUS in R15's layout, with OUT_DEPTH and OUT_LEVEL as the bytes `d` and `l`. -/
def statusBit (s : State) (d l : Byte) (j : Nat) : Bool :=
  !decide (j < 16) && d.getLsbD (j - 16) || !decide (j < 8) && l.getLsbD (j - 8) || s.doneOk && decide (j = 7) ||
    s.errValid && decide (j = 6) || !decide (j < 4) && s.idx.getLsbD (j - 4) || s.mode.code.getLsbD j

section
variable {s : State} {d l : Byte} (hd : s.cfg.outDepth = d.toNat) (hl : s.outLevel = l.toNat)
include hd hl

theorem getLsbD_statusWord {j : Nat} (hj : j < 32) : (statusWord s).getLsbD j = statusBit s d l j := by
  simp [statusWord, statusBit, hd, hl, getElem_flagAt, hj]

/-- A field of STATUS is the vector whose bits stand at its place. -/
theorem extractLsb'_statusWord {k n : Nat} (hk : k + n ≤ 32) {f : BitVec n}
    (h : ∀ j < n, statusBit s d l (k + j) = f.getLsbD j) : (statusWord s).extractLsb' k n = f := by
  apply BitVec.eq_of_getLsbD_eq
  intro j hj
  rw [BitVec.getLsbD_extractLsb', getLsbD_statusWord hd hl (by omega), h j hj]
  simp [hj]

theorem statusWord_mode : (statusWord s).extractLsb' 0 3 = s.mode.code :=
  extractLsb'_statusWord hd hl (by decide) fun j hj => by interval_cases j <;> simp [statusBit]

theorem statusWord_idx : (statusWord s).extractLsb' 4 2 = s.idx :=
  extractLsb'_statusWord hd hl (by decide) fun j hj => by interval_cases j <;> simp [statusBit]

theorem statusWord_outLevel : (statusWord s).extractLsb' 8 8 = l :=
  extractLsb'_statusWord hd hl (by decide) fun j hj => by interval_cases j <;> simp [statusBit]

theorem statusWord_outDepth : (statusWord s).extractLsb' 16 8 = d :=
  extractLsb'_statusWord hd hl (by decide) fun j hj => by interval_cases j <;> simp [statusBit]

theorem statusWord_reserved : (statusWord s).extractLsb' 24 8 = 0 :=
  extractLsb'_statusWord hd hl (by decide) fun j hj => by interval_cases j <;> simp [statusBit]

end

/-- A number that fits in a byte is a byte's value. -/
theorem exists_byte_of_le {n : Nat} (h : n ≤ 255) : ∃ b : Byte, n = b.toNat :=
  ⟨BitVec.ofNat 8 n, (Nat.mod_eq_of_lt (Nat.lt_succ_of_le h)).symm⟩

/-! ### The combinational registers after reset (R30) -/

@[simp] theorem outLevel_resetWith (c : Config) : (State.resetWith c).outLevel = 0 := rfl

theorem statusWord_resetWith (c : Config) : statusWord (State.resetWith c) = BitVec.ofNat 32 c.outDepth <<< 16 := by
  simp [statusWord, flagAt, Mode.code]

theorem errWord_resetWith (c : Config) : errWord (State.resetWith c) = 0 := by
  simp [errWord, flagAt]

/-- No byte of TYPE = 0 is a letter, and bit 5 of each is 0, so only CRITICAL, PUBLIC and RESERVED_OK are 1. -/
theorem typeInfo_zero : typeInfo 0#32 = 0x000000E0 := by decide

theorem crcResult_resetWith (c : Config) : crcResult (State.resetWith c) = 0x00000000 := by
  simp [crcResult, crcFinal]

end Sys2Proof.Machine
end

section
/-! SUPPORT. The obligations about the state: the fields of STATUS, the writers of the FIFO and of DONE_OK, reset. -/

namespace Sys2Proof.Proofs

open Sys2Proof.Machine

/-- Settles O49: OUT_DEPTH and OUT_LEVEL fit a byte each, and each field is read off STATUS bit by bit. -/
theorem statusFields : Obligations.StatusFields := by
  intro s hlevel hdepth
  obtain ⟨d, hd⟩ := exists_byte_of_le hdepth
  obtain ⟨l, hl⟩ := exists_byte_of_le (hlevel.trans hdepth)
  have hcode {m : Mode} (hm : s.mode = m) : (statusWord s).extractLsb' 0 3 = m.code := hm ▸ statusWord_mode hd hl
  refine ⟨hcode rfl, hcode, hcode, hcode, hcode, hcode, hcode, ?bit3, statusWord_idx hd hl, ?errValid, ?doneOk, ?level,
    ?depth, statusWord_reserved hd hl⟩
  case bit3 => rw [getLsbD_statusWord hd hl (by decide)]; simp [statusBit]
  case errValid => rw [getLsbD_statusWord hd hl (by decide)]; simp [statusBit]
  case doneOk => rw [getLsbD_statusWord hd hl (by decide)]; simp [statusBit]
  case level => rw [statusWord_outLevel hd hl]; exact hl.symm
  case depth => rw [statusWord_outDepth hd hl]; exact hd.symm

/-- Settles O55, by the effect of the performed rule on the FIFO; a pop is performed by the read of OUT alone. -/
theorem fifoWriters : Obligations.FifoWriters := by
  intro i s t h
  obtain hkeep | hpush | ⟨hpop, hp⟩ | hempty := (effect_of_exec h).fifo_cases
  · exact .inl hkeep
  · exact .inr (.inl hpush)
  · exact .inr (.inr (.inl ⟨hpop, eq_rdOut_of_performed hp⟩))
  · exact .inr (.inr (.inr hempty))

/-- Settles O57, by the effect of the performed rule on DONE_OK. -/
theorem doneOkWriters : Obligations.DoneOkWriters := by
  intro i s t h
  obtain hkeep | ⟨hset, hp⟩ | ⟨hclear, hp⟩ := (effect_of_exec h).doneOk_cases
  · rw [hkeep]
    exact ⟨fun h0 h1 => by simp [h0] at h1, fun h1 h0 => by simp [h1] at h0⟩
  · exact ⟨fun _ _ => hp, fun _ h0 => by simp [hset] at h0⟩
  · exact ⟨fun _ h1 => by simp [hclear] at h1, fun _ _ => hp⟩

/-- Settles O14: the elements by R30's table, the combinational registers by computing them from it, and SOFT_RESET by
`resetBlock_eq`. -/
theorem resetSetsEveryElement : Obligations.ResetSetsEveryElement := by
  refine ⟨fun c => ?_, fun s => congrArg Host.Outcome.next (resetBlock_eq s)⟩
  exact ⟨rfl, rfl, rfl, rfl, rfl, rfl, rfl, rfl, rfl, rfl, rfl, rfl, rfl, statusWord_resetWith c, errWord_resetWith c,
    typeInfo_zero, crcResult_resetWith c⟩

end Sys2Proof.Proofs
end

section
/-! SUPPORT. The decoder of command words said once (`decodeCmd_decoding`, R47 and R48), the command table read off its
opcodes (R46), and the decoder of bus accesses (R50). -/

namespace Sys2Proof

/-! ### The fields of a command word -/

/-- An assembled word, told by its fields. -/
theorem eq_cmdWord_iff {w : Word} {opc imm : Byte} :
    w = cmdWord opc imm ↔ rsvField w = 0#16 ∧ opcField w = opc ∧ immField w = imm := by
  constructor
  · rintro rfl
    simp
  · rintro ⟨hrsv, rfl, rfl⟩
    exact (cmdWord_fields w hrsv).symm

/-- The mask of a command with an operand keeps OPC and RSV and drops IMM8, so it leaves RSV and OPC to be matched. -/
theorem and_operandMask_eq_iff {w : Word} {opc : Byte} :
    w &&& 0xFFFFFF00#32 = cmdWord opc 0#8 ↔ rsvField w = 0#16 ∧ opcField w = opc := by
  have hrsv : rsvField (w &&& 0xFFFFFF00#32) = rsvField w := by
    rw [rsvField, BitVec.extractLsb'_and]
    exact BitVec.and_allOnes
  have hopc : opcField (w &&& 0xFFFFFF00#32) = opcField w := by
    rw [opcField, BitVec.extractLsb'_and]
    exact BitVec.and_allOnes
  have himm : immField (w &&& 0xFFFFFF00#32) = 0#8 := by
    rw [immField, BitVec.extractLsb'_and]
    exact BitVec.and_zero
  rw [eq_cmdWord_iff, hrsv, hopc, himm]
  simp

/-! ### Legal and illegal words (R47, R48) -/

/-- The thirteen values of OPC in R46. -/
def opcodes : List Byte := [0x00, 0x01, 0x02, 0x08, 0x09, 0x10, 0x11, 0x12, 0x20, 0x21, 0x22, 0xF0, 0xF1]

/-- The eight of them whose command has no operand (R48 (c)). -/
def bareOpcodes : List Byte := [0x00, 0x01, 0x10, 0x12, 0x20, 0x22, 0xF0, 0xF1]

/-- The three classes of R48. -/
def IllegalFields (w : Word) : Prop :=
  opcField w ∉ opcodes ∨ rsvField w ≠ 0#16 ∨ (immField w ≠ 0#8 ∧ opcField w ∈ bareOpcodes)

/-- What the decoder can answer for `w`: the command that encodes to `w`, or the defect that `w` has. -/
inductive Decoding (w : Word) : Except IllegalWord Cmd → Prop
  | legal (c : Cmd) (h : w = encodeCmd c) : Decoding w (.ok c)
  | reservedField (h : rsvField w ≠ 0#16) : Decoding w (.error .reservedField)
  | unassignedOpc (h : opcField w ∉ opcodes) : Decoding w (.error .unassignedOpc)
  | unexpectedOperand (himm : immField w ≠ 0#8) (hopc : opcField w ∈ bareOpcodes) :
      Decoding w (.error .unexpectedOperand)

/-- The decoder's arm of a command without an operand. -/
theorem decoding_bareCmd {w : Word} {opc : Byte} {c : Cmd} (hrsv : rsvField w = 0#16) (hopc : opcField w = opc)
    (hbare : opc ∈ bareOpcodes) (hc : encodeCmd c = cmdWord opc 0#8) : Decoding w (bareCmd c (immField w)) := by
  unfold bareCmd
  split
  case isTrue himm => exact .legal c (hc ▸ eq_cmdWord_iff.2 ⟨hrsv, hopc, himm⟩)
  case isFalse himm => exact .unexpectedOperand himm (hopc ▸ hbare)

/-- The decoder's arm of a command with an operand. -/
theorem decoding_ok {w : Word} {opc : Byte} {c : Cmd} (hrsv : rsvField w = 0#16) (hopc : opcField w = opc)
    (hc : encodeCmd c = cmdWord opc (immField w)) : Decoding w (.ok c) :=
  .legal c (hc ▸ eq_cmdWord_iff.2 ⟨hrsv, hopc, rfl⟩)

/-- The decoder's answer, arm by arm. -/
theorem decodeCmd_decoding (w : Word) : Decoding w (decodeCmd w) := by
  unfold decodeCmd
  split
  case isTrue hrsv => exact .reservedField hrsv
  case isFalse hrsv =>
    have hrsv := not_not.1 hrsv
    split
    case h_3 hopc | h_4 hopc | h_5 hopc | h_7 hopc | h_10 hopc => exact decoding_ok hrsv hopc rfl
    case h_14 =>
      refine .unassignedOpc ?_
      simp only [opcodes, List.mem_cons, List.not_mem_nil, or_false, not_or]
      and_intros <;> assumption
    all_goals exact decoding_bareCmd hrsv ‹_› (by decide) rfl

/-- The decoded command encodes to the word, so it carries the word's operand. -/
theorem encodeCmd_of_decodeCmd {w : Word} {c : Cmd} (h : decodeCmd w = .ok c) : encodeCmd c = w := by
  have hd := decodeCmd_decoding w
  rw [h] at hd
  cases hd with
  | legal _ hc => exact hc.symm

/-- A command's word is in none of the three classes. -/
theorem not_illegalFields_encodeCmd (c : Cmd) : ¬IllegalFields (encodeCmd c) := by
  cases c <;> simp [IllegalFields, encodeCmd, opcodes, bareOpcodes]

/-- R48: the illegal words are those of the three classes. -/
theorem decodeCmd_error_iff (w : Word) : (∃ e, decodeCmd w = .error e) ↔ IllegalFields w := by
  cases hw : decodeCmd w with
  | ok c =>
    rw [← encodeCmd_of_decodeCmd hw]
    exact iff_of_false nofun (not_illegalFields_encodeCmd c)
  | error e =>
    refine iff_of_true ⟨e, rfl⟩ ?_
    have hd := decodeCmd_decoding w
    rw [hw] at hd
    cases hd with
    | reservedField h => exact .inr (.inl h)
    | unassignedOpc h => exact .inl h
    | unexpectedOperand himm hopc => exact .inr (.inr ⟨himm, hopc⟩)

/-- A word in none of the classes is a command's. -/
theorem exists_decodeCmd_of_not_illegalFields {w : Word} (h : ¬IllegalFields w) : ∃ c, decodeCmd w = .ok c := by
  cases hw : decodeCmd w with
  | ok c => exact ⟨c, rfl⟩
  | error e => exact absurd ((decodeCmd_error_iff w).1 ⟨e, hw⟩) h

/-! ### The command table by opcode (R46) -/

/-- The word matches the row. -/
def CmdRow.Matches (row : CmdRow) (w : Word) : Prop := w &&& row.mask = row.pattern

/-- The row's opcode. -/
def CmdRow.opc (row : CmdRow) : Byte := opcField row.pattern

/-- Every row matches one of the thirteen opcodes with the other fields 0, under the mask that its operand asks for. -/
theorem cmdTable_row : ∀ row ∈ cmdTable,
    row.opc ∈ opcodes ∧ row.pattern = cmdWord row.opc 0#8 ∧
      row.mask = if row.opc ∈ bareOpcodes then 0xFFFFFFFF#32 else 0xFFFFFF00#32 := by
  decide

/-- The rows' names differ. -/
theorem cmdTable_mnemonic_inj : ∀ r ∈ cmdTable, ∀ q ∈ cmdTable, r.mnemonic = q.mnemonic → r = q := by
  decide

section
variable {row : CmdRow} (hrow : row ∈ cmdTable)
include hrow

/-- A row's match and mask ask for RSV = 0, for the row's OPC, and for IMM8 = 0 where the command has no operand. -/
theorem matches_iff_fields (w : Word) :
    row.Matches w ↔ rsvField w = 0#16 ∧ opcField w = row.opc ∧ (row.opc ∈ bareOpcodes → immField w = 0#8) := by
  obtain ⟨-, hpattern, hmask⟩ := cmdTable_row row hrow
  rw [CmdRow.Matches, hpattern, hmask]
  split
  case isTrue hbare =>
    have hand : w &&& 0xFFFFFFFF#32 = w := BitVec.and_allOnes
    rw [hand, eq_cmdWord_iff]
    simp only [hbare, forall_const]
  case isFalse hbare =>
    rw [and_operandMask_eq_iff]
    simp only [hbare, false_implies, and_true]

/-- A row that a word matches shows it to be in none of the three classes of R48. -/
theorem not_illegalFields_of_matches {w : Word} (h : row.Matches w) : ¬IllegalFields w := by
  obtain ⟨hrsv, hopc, himm⟩ := (matches_iff_fields hrow w).1 h
  obtain ⟨hmem, -, -⟩ := cmdTable_row row hrow
  rintro (hout | hne | ⟨hne, hbare⟩)
  · exact hout (hopc ▸ hmem)
  · exact hne hrsv
  · exact hne (himm (hopc ▸ hbare))

/-- A command has the row's opcode if it has the row's name. -/
theorem opcField_encodeCmd_eq_iff (c : Cmd) : opcField (encodeCmd c) = row.opc ↔ c.mnemonic = row.mnemonic := by
  revert row
  cases c <;> simp only [encodeCmd, opcField_cmdWord, Cmd.mnemonic] <;> decide

/-- A command's word matches the row of its name and no other. -/
theorem matches_encodeCmd_iff (c : Cmd) : row.Matches (encodeCmd c) ↔ c.mnemonic = row.mnemonic := by
  have hlegal := not_illegalFields_encodeCmd c
  simp only [IllegalFields, not_or, not_and', not_not] at hlegal
  obtain ⟨-, hrsv, himm⟩ := hlegal
  rw [matches_iff_fields hrow, ← opcField_encodeCmd_eq_iff hrow]
  exact ⟨fun h => h.2.1, fun h => ⟨hrsv, h, h ▸ himm⟩⟩

/-- R46: a row matches a word iff the word decodes to the command of the row's name. -/
theorem matches_iff_decodeCmd (w : Word) :
    row.Matches w ↔ ∃ c, decodeCmd w = .ok c ∧ c.mnemonic = row.mnemonic := by
  constructor
  · intro h
    obtain ⟨c, hc⟩ := exists_decodeCmd_of_not_illegalFields (not_illegalFields_of_matches hrow h)
    rw [← encodeCmd_of_decodeCmd hc, matches_encodeCmd_iff hrow] at h
    exact ⟨c, hc, h⟩
  · rintro ⟨c, hc, hname⟩
    rw [← encodeCmd_of_decodeCmd hc]
    exact (matches_encodeCmd_iff hrow c).2 hname

end

/-- A word matches at most one row: the row of the name of the command it decodes to. -/
theorem eq_of_matches {r q : CmdRow} (hr : r ∈ cmdTable) (hq : q ∈ cmdTable) {w : Word} (h : r.Matches w)
    (h' : q.Matches w) : r = q := by
  obtain ⟨c, hc, hname⟩ := (matches_iff_decodeCmd hr w).1 h
  rw [← encodeCmd_of_decodeCmd hc, matches_encodeCmd_iff hq] at h'
  exact cmdTable_mnemonic_inj r hr q hq (hname.symm.trans h')

/-! ### Bus accesses (R50) -/

/-- The low two bits of an offset are its remainder by 4. -/
theorem extractLsb'_two_eq_zero_iff (off : BitVec 6) : off.extractLsb' 0 2 = 0#2 ↔ off.toNat % 4 = 0 := by
  rw [← BitVec.toNat_inj, BitVec.extractLsb'_toNat]
  simp

/-- A write to an aligned offset other than CMD's is ignored (R87). -/
theorem decodeWrite_ignored {off : BitVec 6} (halign : off.toNat % 4 = 0) (hcmd : off ≠ 0x04#6) (data : Word) :
    decodeWrite off data = .ok (.wrIgnored off data) := by
  rw [decodeWrite, if_neg (not_not.2 ((extractLsb'_two_eq_zero_iff off).2 halign)), if_neg hcmd]

theorem decodeWrite_misaligned {off : BitVec 6} (h : off.toNat % 4 ≠ 0) (data : Word) :
    decodeWrite off data = .error .misaligned := by
  rw [decodeWrite, if_pos (mt (extractLsb'_two_eq_zero_iff off).1 h)]

/-- The sixteen offsets of the reads are all aligned. -/
theorem decodeRead_misaligned {off : BitVec 6} (h : off.toNat % 4 ≠ 0) : decodeRead off = .error .misaligned := by
  unfold decodeRead
  split
  case h_17 => rfl
  all_goals exact absurd rfl h

/-- An access outside the interface has the error of its address and width, in either direction. -/
theorem decodeAccess_of_windowOffset_error {c : Config} {addr size : Nat} {e : BadAccess}
    (h : windowOffset c addr size = .error e) (data : Word) :
    decodeAccess c (.memRead addr size) = .error e ∧ decodeAccess c (.memWrite addr size data) = .error e := by
  simp only [decodeAccess, h, and_self]

/-- An access in the window is decoded by its offset, in either direction. -/
theorem decodeAccess_of_windowOffset_ok {c : Config} {addr size : Nat} {off : BitVec 6}
    (h : windowOffset c addr size = .ok off) (data : Word) :
    decodeAccess c (.memRead addr size) = decodeRead off ∧
      decodeAccess c (.memWrite addr size data) = decodeWrite off data := by
  simp only [decodeAccess, h, and_self]

theorem windowOffset_of_size_ne {size : Nat} (h : size ≠ 4) (c : Config) (addr : Nat) :
    windowOffset c addr size = .error .badWidth := if_pos h

theorem windowOffset_of_outside {c : Config} {addr : Nat} (h : addr < c.base ∨ c.base + 64 ≤ addr) :
    windowOffset c addr 4 = .error .outsideWindow := by
  rw [windowOffset, if_neg (not_not.2 rfl), if_pos h]

end Sys2Proof
end

section
/-! SUPPORT. The obligations about the encoding: the command table, the illegal words, the bus accesses. -/

namespace Sys2Proof.Proofs

open Sys2Proof.Machine

/-- Settles O3: a row's match and mask are a condition on the word's fields, which a word meets iff it is the word of
the row's command. -/
theorem decoderAgreesWithTable : Obligations.DecoderAgreesWithTable :=
  ⟨fun _ hrow w => matches_iff_decodeCmd hrow w, fun _ _ => encodeCmd_of_decodeCmd,
    fun _ hr _ hq _ => eq_of_matches hr hq⟩

/-- Settles O5: the classes by the decoder's answers, and the error commit by `raise` where no error is pending. -/
theorem illegalWordsAreThreeClasses : Obligations.IllegalWordsAreThreeClasses := by
  intro w
  refine ⟨decodeCmd_error_iff w, fun e s he hv => ?_⟩
  rw [exec_wrCmd_of_error he, unlessPending_of_clear hv, raise_of_clear hv]
  rfl

/-- Settles O7: the reads at their sixteen offsets, the writes by alignment, an access by its place in the window. -/
theorem busAccessesDecodeByTable : Obligations.BusAccessesDecodeByTable := by
  refine ⟨rfl, rfl, rfl, rfl, rfl, rfl, rfl, rfl, rfl, rfl, rfl, rfl, rfl, rfl, rfl, rfl, fun _ => rfl, ?ignored,
    ?misaligned, ?width, ?outside, ?inside⟩
  case ignored => exact fun _ data halign hcmd => decodeWrite_ignored halign hcmd data
  case misaligned => exact fun _ data h => ⟨⟨_, decodeRead_misaligned h⟩, _, decodeWrite_misaligned h data⟩
  case width =>
    intro c addr size data h
    exact (decodeAccess_of_windowOffset_error (windowOffset_of_size_ne h c addr) data).imp (⟨_, ·⟩) (⟨_, ·⟩)
  case outside =>
    intro c addr data h
    exact (decodeAccess_of_windowOffset_error (windowOffset_of_outside h) data).imp (⟨_, ·⟩) (⟨_, ·⟩)
  case inside => exact fun c off data => decodeAccess_of_windowOffset_ok (windowOffset_base_add c off) data

end Sys2Proof.Proofs
end

section
/-! SUPPORT. What is dropped and what is performed while an error is pending (R54), and the error commit then (R55). -/

namespace Sys2Proof.Machine

/-! ### Dropped command words (R53, R54) -/

/-- The ten commands that R54 drops do all their work behind the check for a pending error. -/
theorem exec_toInstr_eq_unlessPending {c : Cmd} (hc : c ∉ ([.nop, .clrErr, .softReset] : List Cmd)) (s : State) :
    ∃ t, exec c.toInstr s = .next (unlessPending s t) := by
  cases c
  case nop | clrErr | softReset => exact absurd hc (by decide)
  all_goals exact ⟨_, rfl⟩

theorem exec_toInstr_of_pending {c : Cmd} (hc : c ∉ ([.nop, .clrErr, .softReset] : List Cmd)) {s : State}
    (hv : s.errValid = true) : exec c.toInstr s = .next s := by
  obtain ⟨t, ht⟩ := exec_toInstr_eq_unlessPending hc s
  rw [ht, unlessPending_of_pending hv]

theorem exec_wrCmd_of_error_of_pending {w : Word} {e : IllegalWord} (he : decodeCmd w = .error e) {s : State}
    (hv : s.errValid = true) : exec (.wrCmd w) s = .next s := by
  rw [exec_wrCmd_of_error he, unlessPending_of_pending hv]

/-- A word is dropped, legal or not, unless it encodes one of the three commands that R54 performs. -/
theorem exec_wrCmd_of_pending {w : Word} (hw : ∀ c ∈ ([.nop, .clrErr, .softReset] : List Cmd), w ≠ encodeCmd c)
    {s : State} (hv : s.errValid = true) : exec (.wrCmd w) s = .next s := by
  cases hdec : decodeCmd w with
  | error e => exact exec_wrCmd_of_error_of_pending hdec hv
  | ok c =>
    have hc : c ∉ ([.nop, .clrErr, .softReset] : List Cmd) := fun hmem => hw c hmem (encodeCmd_of_decodeCmd hdec).symm
    rw [exec_wrCmd_of_ok hdec, exec_toInstr_of_pending hc hv]

/-! ### The error commit while an error is pending (R55) -/

/-- With an error pending, `raise` aborts the frame and leaves the record as it was. -/
theorem raise_of_pending {s : State} (hv : s.errValid = true) (e : ErrKind) (w : Word) :
    raise e w s = { s with mode := .idle, idx := 0, doneOk := false } := by
  simp [raise, hv]

/-! ### Bus reads (R84 to R86) -/

/-- A bus read returns one value to the host, whether an error is pending or not; RD_OUT alone pops a byte first. -/
theorem exec_eq_observe_of_isBusRead {i : Instr} (hi : isBusRead i = true) (s : State) :
    ∃ v, exec i s = .next (observe v (if i = .rdOut then dropHead s else s)) := by
  cases i
  case nop | crcInit | crcByte | lenShift | typeShift | txStart | txByte | txEnd | rxStart | rxByte | rxEnd | clrErr |
      softReset | wrCmd | wrIgnored => cases hi
  all_goals exact ⟨_, rfl⟩

/-! ### NOP's opcode (R46, R56) -/

/-- Every other command has an opcode of its own. -/
theorem eq_nop_of_opcField_encodeCmd {c : Cmd} (h : opcField (encodeCmd c) = 0x00#8) : c = .nop := by
  cases c
  case nop => rfl
  all_goals simp [encodeCmd] at h

end Sys2Proof.Machine
end

section
/-! SUPPORT. The obligations about control: WR_CMD, the pending error, the error commit, NOP, CLR_ERR, SOFT_RESET. -/

namespace Sys2Proof.Proofs

open Sys2Proof.Machine

/-- Settles O18: a legal word is its command, which always answers; an illegal one is `raise` behind the check for a
pending error. -/
theorem wrCmdDispatches : Obligations.WrCmdDispatches := by
  intro w s
  refine ⟨fun c hdec => ?_, fun c hdec hv hc => ?_, fun e hdec hv => ?_, fun e hdec hv => ?_⟩
  · obtain ⟨t, ht⟩ := exec_answers c.toInstr s
    exact ⟨t, ht, (exec_wrCmd_of_ok hdec s).trans ht⟩
  · rw [exec_wrCmd_of_ok hdec, exec_toInstr_of_pending hc hv]
  · exact exec_wrCmd_of_error_of_pending hdec hv
  · rw [exec_wrCmd_of_error hdec, unlessPending_of_clear hv, raise_of_clear hv]
    rfl

/-- Settles O19: the words by what they decode to, the commands by the check they begin with, the bus reads by the
value each returns. -/
theorem pendingErrorDropsCommands : Obligations.PendingErrorDropsCommands := by
  intro s hv
  refine ⟨fun w hnop hclr hreset => ?_, fun c hc => exec_toInstr_of_pending hc hv, fun i hi => ?_⟩
  · refine exec_wrCmd_of_pending (fun c hc => ?_) hv
    simp only [List.mem_cons, List.not_mem_nil, or_false] at hc
    obtain rfl | rfl | rfl := hc
    exacts [hnop, hclr, hreset]
  · obtain ⟨v, ht⟩ := exec_eq_observe_of_isBusRead hi s
    refine ⟨v, _, ht, ?_⟩
    rw [observe_reads]
    split <;> simp

/-- Settles O20, by what `raise` does without and with a pending error. -/
theorem errorCommitRule : Obligations.ErrorCommitRule := fun e w _ =>
  ⟨fun hv => raise_of_clear hv e w, fun hv => raise_of_pending hv e w⟩

/-- Settles O21: a legal word encodes its command, and of the commands only NOP has OPC 0. -/
theorem nopRule : Obligations.NopRule := by
  refine ⟨fun _ => rfl, rfl, fun w hopc hne => ?_⟩
  cases hdec : decodeCmd w with
  | error e => exact ⟨e, rfl⟩
  | ok c =>
    have hw : encodeCmd c = w := encodeCmd_of_decodeCmd hdec
    have hc : c = .nop := eq_nop_of_opcField_encodeCmd (hw ▸ hopc)
    subst hc
    exact absurd hw.symm hne

/-- Settles O22: CLR_ERR is `clearError` in every state. -/
theorem clrErrRule : Obligations.ClrErrRule := ⟨fun _ => rfl, rfl⟩

/-- Settles O23: SOFT_RESET is `resetBlock` in every state. -/
theorem softResetRule : Obligations.SoftResetRule := ⟨fun _ => rfl, rfl⟩

end Sys2Proof.Proofs
end

section
/-! SUPPORT. A command and its word (R46), a command that one mode alone admits (R53, R89), and TYPE_INFO bit by bit
(R59 to R63). -/

namespace Sys2Proof

/-- An operand is put into a command word by or (R51). -/
theorem cmdWord_zero_or (opc imm : Byte) : cmdWord opc 0 ||| imm.setWidth 32 = cmdWord opc imm :=
  calc cmdWord opc 0 ||| imm.setWidth 32
    _ = (opc ++ 0#16 ++ 0#8) ||| (0#24 ++ imm) := by simp [cmdWord, BitVec.setWidth_eq_append]
    _ = ((opc ++ 0#16) ||| 0#24) ++ (0#8 ||| imm) := BitVec.or_append
    _ = cmdWord opc imm := by rw [BitVec.or_zero, BitVec.zero_or, cmdWord]

/-- A command's word decodes to the command (R46, R47). -/
theorem decodeCmd_encodeCmd (c : Cmd) : decodeCmd (encodeCmd c) = .ok c := by
  cases c <;> simp [encodeCmd, decodeCmd, bareCmd]

namespace Machine

/-! ### A command that one mode alone admits (R89) -/

section
variable {s : State} {m : Mode} (hv : s.errValid = false)
include hv

/-- In another mode the command is the error commit of SEQ_ERROR. -/
theorem unlessPending_seqError_of_ne (hm : s.mode ≠ m) (w : Word) (t : State) :
    unlessPending s (if s.mode ≠ m then raise .seqError w s else t) = errorState 2#4 w s := by
  rw [unlessPending_of_clear hv, if_pos hm, raise_of_clear hv]
  rfl

/-- In that mode the command's rule runs. -/
theorem unlessPending_seqError_of_eq (hm : s.mode = m) (w : Word) (t : State) :
    unlessPending s (if s.mode ≠ m then raise .seqError w s else t) = t := by
  rw [unlessPending_of_clear hv, if_neg (not_not.2 hm)]

end

/-! ### TYPE_INFO bit by bit (R60 to R63) -/

/-- Bit `j` of TYPE_INFO in R63's layout. -/
def typeInfoBit (t : Word) : Nat → Bool
  | 0 => alpha t 0
  | 1 => alpha t 1
  | 2 => alpha t 2
  | 3 => alpha t 3
  | 4 => allAlpha t
  | 5 => isCritical t
  | 6 => isPublic t
  | 7 => reservedOk t
  | 8 => safeToCopy t
  | 9 => typeValid t
  | _ => false

theorem getLsbD_typeInfo (t : Word) {j : Nat} (hj : j < 32) : (typeInfo t).getLsbD j = typeInfoBit t j := by
  simp only [typeInfo, BitVec.getLsbD_eq_getElem hj, BitVec.getElem_or, getElem_flagAt]
  interval_cases j <;> simp [typeInfoBit]

/-- The bits above VALID are 0. -/
theorem typeInfo_reserved (t : Word) : (typeInfo t).extractLsb' 10 22 = 0 := by
  apply BitVec.eq_of_getLsbD_eq
  intro j hj
  rw [BitVec.getLsbD_extractLsb', getLsbD_typeInfo t (by omega), Nat.add_comm]
  simp [typeInfoBit]

/-- The letters as ranges of code points (R60). -/
theorem isLetter_iff (x : Byte) :
    isLetter x = true ↔ (0x41 ≤ x.toNat ∧ x.toNat ≤ 0x5A) ∨ (0x61 ≤ x.toNat ∧ x.toNat ≤ 0x7A) := by
  simp [isLetter, BitVec.le_def]

/-- The case bit of type byte `k` is bit 5 of its place in TYPE (R59, R61). -/
theorem caseBit_typeByte (t : Word) {k : Nat} (hk : k ≤ 3) : caseBit (typeByte t k) = t.getLsbD (29 - 8 * k) := by
  have hplace : 24 - 8 * k + 5 = 29 - 8 * k := by omega
  simp [caseBit, typeByte, hplace]

theorem allAlpha_iff (t : Word) :
    allAlpha t = true ↔ alpha t 0 = true ∧ alpha t 1 = true ∧ alpha t 2 = true ∧ alpha t 3 = true := by
  simp [allAlpha, and_assoc]

end Machine

end Sys2Proof
end

section
/-! SUPPORT. The obligations about the chunk type: TYPE_INFO and TYPE_SHIFT. -/

namespace Sys2Proof.Proofs

open Sys2Proof.Machine

/-- Settles O51: the bits are the flags in R63's layout, and each flag is a condition on TYPE's bytes. -/
theorem typeInfoFields : Obligations.TypeInfoFields := by
  intro t letter
  have hletter (k : Nat) : alpha t k = true ↔ letter (typeByte t k) := isLetter_iff _
  have hall : allAlpha t = true ↔
      letter (typeByte t 0) ∧ letter (typeByte t 1) ∧ letter (typeByte t 2) ∧ letter (typeByte t 3) := by
    rw [allAlpha_iff, hletter, hletter, hletter, hletter]
  have hcase (k : Nat) (hk : k ≤ 3) : caseBit (typeByte t k) = t.getLsbD (29 - 8 * k) := caseBit_typeByte t hk
  simp (disch := decide) only [getLsbD_typeInfo]
  exact ⟨hletter 0, hletter 1, hletter 2, hletter 3, hall, congrArg not (hcase 0 (by decide)),
    congrArg not (hcase 1 (by decide)), congrArg not (hcase 2 (by decide)), hcase 3 (by decide), rfl,
    typeInfo_reserved t⟩

/-- Settles O30: TYPE_SHIFT is a rule of IDLE alone, and its word decodes to it. -/
theorem typeShiftRule : Obligations.TypeShiftRule := by
  intro b s
  have hword : (0x09000000 : Word) ||| b.setWidth 32 = encodeCmd (.typeShift b) := cmdWord_zero_or 0x09 b
  rw [hword]
  exact ⟨decodeCmd_encodeCmd _, fun hv => congrArg Host.Outcome.next (unlessPending_of_pending hv _),
    fun hv hm => congrArg Host.Outcome.next (unlessPending_seqError_of_ne hv hm _ _),
    fun hv hm => congrArg Host.Outcome.next (unlessPending_seqError_of_eq hv hm _ _)⟩

end Sys2Proof.Proofs
end

section
/-! SUPPORT. The CRC step is linear and one to one (R66, R68), and CRC_INIT and CRC_BYTE in IDLE (R69, R70). -/

namespace Sys2Proof.Machine

/-! ### Linearity over xor (R68 (c)) -/

/-- A turn shifts, and xors a word that the bit shifted out selects. -/
theorem crcShift_eq (c : Word) : crcShift c = c >>> 1 ^^^ if c.getLsbD 0 then crcPoly else 0#32 := by
  unfold crcShift
  split
  · rfl
  · exact BitVec.xor_zero.symm

/-- One turn of the loop is linear: where both registers shift out a 1, the two polynomials cancel. -/
theorem crcShift_xor (c d : Word) : crcShift (c ^^^ d) = crcShift c ^^^ crcShift d := by
  have hselect (p q : Bool) : (if (p ^^ q) then crcPoly else 0#32) =
      (if p then crcPoly else 0#32) ^^^ (if q then crcPoly else 0#32) := by
    cases p <;> cases q <;> decide
  simp only [crcShift_eq, BitVec.getLsbD_xor, BitVec.ushiftRight_xor_distrib, hselect]
  ac_rfl

theorem crcTurns_xor (n : Nat) (c d : Word) : crcTurns n (c ^^^ d) = crcTurns n c ^^^ crcTurns n d := by
  induction n generalizing c d with
  | zero => rfl
  | succ n ih => simp only [crcTurns, crcShift_xor, ih]

/-- The step looks at the register and the byte through their xor. -/
theorem crcStep_eq_crcStep_xor (c : Word) (b : Byte) : crcStep c b = crcStep (c ^^^ b.setWidth 32) 0 :=
  congrArg (crcTurns 8) BitVec.xor_zero.symm

theorem crcStep_zero_byte (c : Word) : crcStep c 0 = crcTurns 8 c := congrArg (crcTurns 8) BitVec.xor_zero

theorem crcStep_zero_register (b : Byte) : crcStep 0 b = crcTurns 8 (b.setWidth 32) :=
  congrArg (crcTurns 8) BitVec.zero_xor

/-! ### The byte-table form (R68 (b)) -/

/-- While only zeros are shifted out, the turns are a shift. -/
theorem crcTurns_of_low_zero {n : Nat} {c : Word} (h : ∀ i < n, c.getLsbD i = false) : crcTurns n c = c >>> n := by
  induction n generalizing c with
  | zero => simp [crcTurns]
  | succ n ih =>
    have hturn : crcShift c = c >>> 1 := by
      rw [crcShift_eq, h 0 n.succ_pos]
      exact BitVec.xor_zero
    have hrest : ∀ i < n, (c >>> 1).getLsbD i = false := fun i hi => by
      rw [BitVec.getLsbD_ushiftRight]
      exact h (1 + i) (by omega)
    rw [crcTurns, hturn, ih hrest, ← BitVec.shiftRight_add, Nat.add_comm]

/-- A byte in a register has nothing above its 8 bits. -/
theorem setWidth_byte_ushiftRight_eight (b : Byte) : b.setWidth 32 >>> 8 = 0#32 := by
  apply BitVec.eq_of_getLsbD_eq
  simp

/-- A register without its low byte has zeros there. -/
theorem getLsbD_xor_low_byte (x : Word) {i : Nat} (hi : i < 8) :
    (x ^^^ (x.extractLsb' 0 8).setWidth 32).getLsbD i = false := by
  have hi' : i < 32 := by omega
  simp [hi, hi']

/-- Eight turns shift the upper bytes down and turn the low byte alone. -/
theorem crcTurns_eight (x : Word) : crcTurns 8 x = x >>> 8 ^^^ crcStep 0 (x.extractLsb' 0 8) := by
  let low : Word := (x.extractLsb' 0 8).setWidth 32
  calc crcTurns 8 x
    _ = crcTurns 8 ((x ^^^ low) ^^^ low) := by rw [BitVec.xor_assoc, BitVec.xor_self, BitVec.xor_zero]
    _ = crcTurns 8 (x ^^^ low) ^^^ crcTurns 8 low := crcTurns_xor ..
    _ = (x ^^^ low) >>> 8 ^^^ crcTurns 8 low := by rw [crcTurns_of_low_zero fun i => getLsbD_xor_low_byte x]
    _ = x >>> 8 ^^^ crcStep 0 (x.extractLsb' 0 8) := by
      rw [BitVec.ushiftRight_xor_distrib, setWidth_byte_ushiftRight_eight, BitVec.xor_zero, crcStep_zero_register]

theorem crcStep_eq_table (c : Word) (b : Byte) :
    crcStep c b = c >>> 8 ^^^ crcStep 0 ((c ^^^ b.setWidth 32).extractLsb' 0 8) := by
  rw [crcStep_eq_crcStep_xor, crcStep_zero_byte, crcTurns_eight, BitVec.ushiftRight_xor_distrib,
    setWidth_byte_ushiftRight_eight, BitVec.xor_zero]

/-! ### One to one in the register and in the byte (R68 (f)) -/

/-- The polynomial's top bit tells which bit was shifted out. -/
theorem getLsbD_crcShift_top (c : Word) : (crcShift c).getLsbD 31 = c.getLsbD 0 := by
  rw [crcShift_eq, BitVec.getLsbD_xor]
  cases c.getLsbD 0 <;> simp [crcPoly]

theorem crcShift_injective : Function.Injective crcShift := by
  intro c d h
  have hlow : c.getLsbD 0 = d.getLsbD 0 := by rw [← getLsbD_crcShift_top, h, getLsbD_crcShift_top]
  have hhigh : c >>> 1 = d >>> 1 := by
    rw [crcShift_eq, crcShift_eq, hlow] at h
    exact (BitVec.xor_left_inj _).1 h
  apply BitVec.eq_of_getLsbD_eq
  intro i _
  cases i with
  | zero => exact hlow
  | succ i => simpa [Nat.add_comm] using congrArg (·.getLsbD i) hhigh

theorem crcTurns_injective (n : Nat) : Function.Injective (crcTurns n) := by
  induction n with
  | zero => exact Function.injective_id
  | succ n ih => exact ih.comp crcShift_injective

theorem crcStep_register_injective (b : Byte) : Function.Injective (crcStep · b) := fun _ _ h =>
  (BitVec.xor_left_inj _).1 (crcTurns_injective 8 h)

theorem crcStep_byte_injective (c : Word) : Function.Injective (crcStep c) := fun b d h => by
  have hwide : zext32 b = zext32 d := (BitVec.xor_right_inj _).1 (crcTurns_injective 8 h)
  simpa [zext32] using congrArg (BitVec.setWidth 8) hwide

theorem crcFold_injective (s : List Byte) : Function.Injective (crcFold · s) := by
  induction s with
  | nil => exact Function.injective_id
  | cons b s ih => exact ih.comp (crcStep_register_injective b)

/-- Two sequences that differ in one byte have the same CRC only if the bytes are the same. -/
theorem crc32_changed_byte_inj {s t : List Byte} {b d : Byte} (h : crc32 (s ++ b :: t) = crc32 (s ++ d :: t)) :
    b = d := by
  rw [crc32, crc32, crcFinal_inj, crcFold_append, crcFold_append] at h
  exact crcStep_byte_injective _ (crcFold_injective t h)

/-- Flipping a bit of a byte changes the byte. -/
theorem ne_xor_twoPow {n k : Nat} (hk : k < n) (b : BitVec n) : b ≠ b ^^^ BitVec.twoPow n k := fun h => by
  have hbit := congrArg (·.getLsbD k) h
  simp [hk] at hbit

/-! ### CRC_INIT and CRC_BYTE without a pending error (R69, R70) -/

section
variable {s : State} (hv : s.errValid = false)
include hv

theorem exec_crcInit_of_idle (hm : s.mode = .idle) : exec .crcInit s = .next { s with crcState := crcSeed } :=
  congrArg Host.Outcome.next (unlessPending_seqError_of_eq hv hm _ _)

theorem exec_crcByte_of_idle (hm : s.mode = .idle) (b : Byte) :
    exec (.crcByte b) s = .next { s with crcState := crcStep s.crcState b } :=
  congrArg Host.Outcome.next (unlessPending_seqError_of_eq hv hm _ _)

/-- CRC_BYTE over a sequence folds it into CRC_STATE (R71). -/
theorem runAll_crcBytes (hm : s.mode = .idle) (bytes : List Byte) :
    runAll (crcBytes bytes) s = .next { s with crcState := crcFold s.crcState bytes } := by
  induction bytes generalizing s with
  | nil => rfl
  | cons b bytes ih => exact (runAll_cons (exec_crcByte_of_idle hv hm b) _).trans (ih hv hm)

end

end Sys2Proof.Machine
end

section
/-! SUPPORT. The obligations about the CRC: its function, CRC_INIT, CRC_BYTE, and the CRC of a byte sequence. -/

namespace Sys2Proof.Proofs

open Sys2Proof.Machine

/-- Settles O33: CRC_INIT loads the seed, and the bytes are folded into whatever CRC_STATE holds. -/
theorem standaloneCrcOfBytes : Obligations.StandaloneCrcOfBytes := by
  intro bytes s hm hv
  refine ⟨?_, fun hseed => ?_, rfl⟩
  · rw [runAll_cons (exec_crcInit_of_idle hv hm)]
    exact runAll_crcBytes (s := { s with crcState := crcSeed }) hv hm bytes
  · rw [runAll_crcBytes hv hm bytes, hseed]

/-- Settles O34, by the linearity of the turns and the byte table that follows from it. -/
theorem crcStepLaws : Obligations.CrcStepLaws := by
  refine ⟨crcStep_eq_table, crcStep_eq_crcStep_xor, fun c d => ?_⟩
  simp only [crcStep_zero_byte, crcTurns_xor]

/-- Settles O35: the step is one to one in the byte and, for the bytes that follow, in the register. -/
theorem crcDetectsChangedByte : Obligations.CrcDetectsChangedByte :=
  ⟨fun _ _ _ _ hne h => hne (crc32_changed_byte_inj h),
    fun _ _ b _ hk h => ne_xor_twoPow hk b (crc32_changed_byte_inj h)⟩

/-- Settles O28: CRC_INIT is a rule of IDLE alone. -/
theorem crcInitRule : Obligations.CrcInitRule :=
  ⟨decodeCmd_encodeCmd .crcInit, BitVec.xor_self, fun _ =>
    ⟨fun hv => congrArg Host.Outcome.next (unlessPending_of_pending hv _),
      fun hv hm => congrArg Host.Outcome.next (unlessPending_seqError_of_ne hv hm _ _), exec_crcInit_of_idle⟩⟩

/-- Settles O29: CRC_BYTE is a rule of IDLE alone, and its word decodes to it. -/
theorem crcByteRule : Obligations.CrcByteRule := by
  refine ⟨by decide, by decide, by decide, fun b s => ?_⟩
  have hword : (0x02000000 : Word) ||| b.setWidth 32 = encodeCmd (.crcByte b) := cmdWord_zero_or 0x02 b
  rw [hword]
  exact ⟨decodeCmd_encodeCmd _, fun hv => congrArg Host.Outcome.next (unlessPending_of_pending hv _),
    fun hv hm => congrArg Host.Outcome.next (unlessPending_seqError_of_ne hv hm _ _),
    fun hv hm => exec_crcByte_of_idle hv hm b⟩

end Sys2Proof.Proofs
end

section
/-! SUPPORT. The framer's commands without a pending error, outcome by outcome (R73 to R76). -/

namespace Sys2Proof.Machine

/-- The header is out, and the data bytes are to follow: the effect of TX_START (R74). -/
def txStarted (s : State) : State :=
  { push (be32 s.len ++ be32 s.type) s with
    crcState := crcFold crcSeed (be32 s.type), count := 0#32, doneOk := false, mode := .txData }

/-- COUNT below LEN does not wrap when it is stepped (R75). -/
theorem toNat_add_one_of_lt {count len : Word} (h : count < len) : (count + 1).toNat = count.toNat + 1 := by
  bv_omega

section
variable {s : State} (hv : s.errValid = false)
include hv

/-- A check of R91 that fails behind the check of the mode is the error commit of its kind. -/
theorem unlessPending_raise_of_eq {m : Mode} (hm : s.mode = m) (v w : Word) {c : Prop} [Decidable c] (hc : c)
    (e : ErrKind) (t : State) :
    unlessPending s (if s.mode ≠ m then raise .seqError v s else if c then raise e w s else t) =
      errorState e.code w s := by
  rw [unlessPending_seqError_of_eq hv hm, if_pos hc, raise_of_clear hv]

/-! ### In IDLE -/

section
variable (hm : s.mode = .idle)
include hm

theorem exec_lenShift_of_idle (b : Byte) : exec (.lenShift b) s = .next { s with len := shiftIn s.len b } :=
  congrArg Host.Outcome.next (unlessPending_seqError_of_eq hv hm _ _)

theorem exec_typeShift_of_idle (b : Byte) : exec (.typeShift b) s = .next { s with type := shiftIn s.type b } :=
  congrArg Host.Outcome.next (unlessPending_seqError_of_eq hv hm _ _)

theorem exec_txStart_of_lt (hfree : s.free < 8) :
    exec .txStart s = .next (errorState 3#4 (encodeCmd .txStart) s) :=
  congrArg Host.Outcome.next (unlessPending_raise_of_eq hv hm _ _ hfree .outOverflow _)

theorem exec_txStart_of_le (hfree : 8 ≤ s.free) : exec .txStart s = .next (txStarted s) :=
  congrArg Host.Outcome.next ((unlessPending_seqError_of_eq hv hm _ _).trans (if_neg (Nat.not_lt.2 hfree)))

end

/-! ### In TX_DATA -/

section
variable (hm : s.mode = .txData)
include hm

theorem exec_txByte_of_overrun (hcount : s.count = s.len) (b : Byte) :
    exec (.txByte b) s = .next (errorState 4#4 (encodeCmd (.txByte b)) s) :=
  congrArg Host.Outcome.next (unlessPending_raise_of_eq hv hm _ _ hcount .txOverrun _)

theorem exec_txByte_of_lt (hcount : s.count ≠ s.len) (hfree : s.free < 1) (b : Byte) :
    exec (.txByte b) s = .next (errorState 3#4 (encodeCmd (.txByte b)) s) := by
  simp only [exec, execTxByte]
  rw [if_neg hcount, unlessPending_raise_of_eq hv hm _ _ hfree]
  rfl

theorem exec_txByte_of_le (hcount : s.count ≠ s.len) (hfree : 1 ≤ s.free) (b : Byte) :
    exec (.txByte b) s = .next
      { push [b] s with crcState := crcStep s.crcState b, count := s.count + 1#32 } := by
  simp only [exec, execTxByte]
  rw [unlessPending_seqError_of_eq hv hm, if_neg hcount, if_neg (Nat.not_lt.2 hfree)]

theorem exec_txEnd_of_underrun (hcount : s.count ≠ s.len) :
    exec .txEnd s = .next (errorState 5#4 (encodeCmd .txEnd) s) :=
  congrArg Host.Outcome.next (unlessPending_raise_of_eq hv hm _ _ hcount .txUnderrun _)

theorem exec_txEnd_of_lt (hcount : s.count = s.len) (hfree : s.free < 4) :
    exec .txEnd s = .next (errorState 3#4 (encodeCmd .txEnd) s) := by
  simp only [exec, execTxEnd]
  rw [if_neg (not_not.2 hcount), unlessPending_raise_of_eq hv hm _ _ hfree]
  rfl

theorem exec_txEnd_of_le (hcount : s.count = s.len) (hfree : 4 ≤ s.free) :
    exec .txEnd s = .next { push (be32 (crcFinal s.crcState)) s with mode := .idle, doneOk := true } := by
  simp only [exec, execTxEnd]
  rw [unlessPending_seqError_of_eq hv hm, if_neg (not_not.2 hcount), if_neg (Nat.not_lt.2 hfree)]

end

end

end Sys2Proof.Machine
end

section
/-! SUPPORT. Commands with OUT reads interleaved (R78, R102): the state they lead to, up to what the host has popped. -/

namespace Sys2Proof.Machine

/-! ### The FIFO space a run finds -/

theorem spaceSuffices_cons {i : Instr} {s t : State} (h : exec i s = .next t) (is : List Instr) :
    spaceSuffices (i :: is) s = true ↔ spaceNeeded i ≤ s.free ∧ spaceSuffices is t = true := by
  simp [spaceSuffices, h]

theorem spaceSuffices_append {is : List Instr} {s t : State} (h : runAll is s = .next t) (js : List Instr) :
    spaceSuffices (is ++ js) s = true ↔ spaceSuffices is s = true ∧ spaceSuffices js t = true := by
  induction is generalizing s with
  | nil =>
    obtain rfl := Host.Outcome.next.inj h
    simp [spaceSuffices]
  | cons i is ih =>
    obtain ⟨u, hu⟩ := exec_answers i s
    rw [runAll_cons hu] at h
    rw [List.cons_append, spaceSuffices_cons hu, spaceSuffices_cons hu, ih h, and_assoc]

theorem spaceNeeded_le_of_spaceSuffices {i : Instr} {is : List Instr} {s : State}
    (h : spaceSuffices (i :: is) s = true) : spaceNeeded i ≤ s.free := by
  obtain ⟨t, ht⟩ := exec_answers i s
  exact ((spaceSuffices_cons ht is).1 h).1

theorem spaceSuffices_left {is js : List Instr} {s : State} (h : spaceSuffices (is ++ js) s = true) :
    spaceSuffices is s = true := by
  obtain ⟨t, ht⟩ := runAll_answers is s
  exact ((spaceSuffices_append ht js).1 h).1

/-! ### The bytes the host has popped -/

theorem outBytes_append (vs ws : List Word) : outBytes (vs ++ ws) = outBytes vs ++ outBytes ws := by
  induction vs with
  | nil => rfl
  | cons v vs ih =>
    simp only [List.cons_append, outBytes, ih]
    split <;> rfl

/-- A read of OUT gives the host the byte it takes off the FIFO, or none when there is none (R85). -/
theorem outBytes_outWord_append_tail (s : State) : outBytes [outWord s] ++ s.fifo.tail = s.fifo := by
  cases hf : s.fifo with
  | nil => simp [outWord, hf, outBytes]
  | cons b bs =>
    have hvalid : (0x00000100#32 ||| zext32 b).getLsbD 8 = true := by simp [zext32]
    have hbyte : (0x00000100#32 ||| zext32 b).extractLsb' 0 8 = b := by
      have hclear : ∀ i < 8, (0x00000100#32).getLsbD i = false := by decide
      apply BitVec.eq_of_getLsbD_eq
      intro i hi
      have hi' : i < 32 := by omega
      rw [BitVec.getLsbD_extractLsb', Nat.zero_add, BitVec.getLsbD_or, hclear i hi]
      simp [zext32, hi, hi']
    simp only [outWord, hf, outBytes, hvalid, hbyte, if_true, List.tail_cons, List.cons_append, List.nil_append]

/-- `s` with the bytes `f` in the FIFO and the values `rs` read. -/
def State.withStream (s : State) (f : List Byte) (rs : List Word) : State := { s with fifo := f, reads := rs }

/-- `u` is `s` but for OUT reads the host has made: the bytes they gave it and those left in the FIFO are `s`'s FIFO. -/
def Drained (s u : State) : Prop :=
  ∃ (vs : List Word) (f : List Byte), u = s.withStream f (s.reads ++ vs) ∧ outBytes vs ++ f = s.fifo

theorem Drained.refl (s : State) : Drained s s := ⟨[], s.fifo, by simp [State.withStream], rfl⟩

/-- One more read of OUT. -/
theorem Drained.pop {s u : State} (h : Drained s u) : Drained s (observe (outWord u) (dropHead u)) := by
  obtain ⟨vs, f, hu, hf⟩ := h
  have hpop : outBytes [outWord u] ++ f.tail = f := by
    have hfifo : u.fifo = f := by rw [hu]; rfl
    rw [← hfifo, outBytes_outWord_append_tail]
  refine ⟨vs ++ [outWord u], f.tail, ?_, by rw [outBytes_append, List.append_assoc, hpop, hf]⟩
  generalize outWord u = v
  simp [hu, State.withStream, observe, dropHead]

/-! ### Commands with OUT reads interleaved -/

/-- Where the host has popped what it liked and the FIFO has the space `i` requires, `i` leads from `s` to `t` up to
what was popped. -/
def Performs (i : Instr) (s t : State) : Prop :=
  ∀ u, Drained s u → spaceNeeded i ≤ u.free → ∃ v, exec i u = .next v ∧ Drained t v

/-- The commands `cs`, with OUT reads interleaved at will and the FIFO space each requires, lead from `s` to `t` up to
what was popped. -/
def LeadsTo (cs : List Instr) (s t : State) : Prop :=
  ∀ is u, Drained s u → is.filter (fun i => i != .rdOut) = cs → spaceSuffices is u = true →
    ∃ v, runAll is u = .next v ∧ Drained t v

/-- OUT reads alone only pop. -/
theorem LeadsTo.nil (s : State) : LeadsTo [] s s := by
  intro is u hd hfilter hspace
  induction is generalizing u with
  | nil => exact ⟨u, rfl, hd⟩
  | cons i is ih =>
    simp only [List.filter_eq_nil_iff, List.forall_mem_cons, bne_iff_ne, not_not] at hfilter ih
    obtain ⟨rfl, hrest⟩ := hfilter
    rw [runAll_cons rfl]
    exact ih _ hd.pop hrest ((spaceSuffices_cons rfl is).1 hspace).2

/-- The OUT reads before a command only pop, and the command finds its space after them. -/
theorem LeadsTo.single {c : Instr} {s t : State} (h : Performs c s t) : LeadsTo [c] s t := by
  intro is u hd hfilter hspace
  obtain ⟨before, after, rfl, hbefore, -, hafter⟩ := List.filter_eq_cons_iff.1 hfilter
  obtain ⟨v, hv, hdv⟩ := LeadsTo.nil s before u hd (List.filter_eq_nil_iff.2 hbefore) (spaceSuffices_left hspace)
  have hspace' := ((spaceSuffices_append hv _).1 hspace).2
  obtain ⟨w, hw, hdw⟩ := h v hdv (spaceNeeded_le_of_spaceSuffices hspace')
  rw [runAll_append hv, runAll_cons hw]
  exact LeadsTo.nil t after w hdw hafter ((spaceSuffices_cons hw after).1 hspace').2

theorem LeadsTo.append {cs ds : List Instr} {s t e : State} (hcs : LeadsTo cs s t) (hds : LeadsTo ds t e) :
    LeadsTo (cs ++ ds) s e := by
  intro is u hd hfilter hspace
  obtain ⟨js, ks, rfl, hjs, hks⟩ := List.filter_eq_append_iff.1 hfilter
  obtain ⟨v, hv, hdv⟩ := hcs js u hd hjs (spaceSuffices_left hspace)
  rw [runAll_append hv]
  exact hds ks v hdv hks ((spaceSuffices_append hv ks).1 hspace).2

theorem LeadsTo.cons {c : Instr} {cs : List Instr} {s t e : State} (h : Performs c s t) (hcs : LeadsTo cs t e) :
    LeadsTo (c :: cs) s e := (LeadsTo.single h).append hcs

end Sys2Proof.Machine
end

section
/-! SUPPORT. A frame with OUT reads interleaved, field by field (R78). -/

namespace Sys2Proof.Machine

/-- The four bytes of a word, shifted in, replace a register by the word (R52). -/
theorem foldl_shiftIn_be32 (v w : Word) : (be32 w).foldl shiftIn v = w :=
  (shiftIn_four ..).trans (ofBe32_be32 w)

/-- LEN and TYPE are loaded (R52). -/
def loaded (n t : Word) (s : State) : State := { s with len := n, type := t }

/-- The data bytes `d` are out, as many as LEN says (R75). -/
def txSent (d : List Byte) (s : State) : State :=
  { push d s with crcState := crcFold s.crcState d, count := s.len }

/-- A whole frame is out, with the data `d` and the LEN and TYPE of `s` (R72, R78). -/
def transmitted (d : List Byte) (s : State) : State :=
  { push (be32 s.len ++ be32 s.type ++ d ++ be32 (crc32 (be32 s.type ++ d))) s with
    crcState := crcFold crcSeed (be32 s.type ++ d), count := s.len, doneOk := true, mode := .idle }

section
variable {s : State} (hv : s.errValid = false)
include hv

/-! ### The commands -/

theorem performs_lenShift (hm : s.mode = .idle) (b : Byte) :
    Performs (.lenShift b) s { s with len := shiftIn s.len b } := by
  rintro _ ⟨vs, f, rfl, hf⟩ -
  exact ⟨_, exec_lenShift_of_idle (s := s.withStream f _) hv hm b, vs, f, rfl, hf⟩

theorem performs_typeShift (hm : s.mode = .idle) (b : Byte) :
    Performs (.typeShift b) s { s with type := shiftIn s.type b } := by
  rintro _ ⟨vs, f, rfl, hf⟩ -
  exact ⟨_, exec_typeShift_of_idle (s := s.withStream f _) hv hm b, vs, f, rfl, hf⟩

theorem performs_txStart (hm : s.mode = .idle) : Performs .txStart s (txStarted s) := by
  rintro _ ⟨vs, f, rfl, hf⟩ hfree
  exact ⟨_, exec_txStart_of_le (s := s.withStream f _) hv hm hfree, vs, f ++ (be32 s.len ++ be32 s.type), rfl,
    by simp [txStarted, ← hf]⟩

theorem performs_txByte (hm : s.mode = .txData) (hcount : s.count ≠ s.len) (b : Byte) :
    Performs (.txByte b) s { push [b] s with crcState := crcStep s.crcState b, count := s.count + 1#32 } := by
  rintro _ ⟨vs, f, rfl, hf⟩ hfree
  exact ⟨_, exec_txByte_of_le (s := s.withStream f _) hv hm hcount hfree b, vs, f ++ [b], rfl, by simp [← hf]⟩

theorem performs_txEnd (hm : s.mode = .txData) (hcount : s.count = s.len) :
    Performs .txEnd s { push (be32 (crcFinal s.crcState)) s with mode := .idle, doneOk := true } := by
  rintro _ ⟨vs, f, rfl, hf⟩ hfree
  exact ⟨_, exec_txEnd_of_le (s := s.withStream f _) hv hm hcount hfree, vs, f ++ be32 (crcFinal s.crcState), rfl,
    by simp [← hf]⟩

/-! ### The parts of a frame -/

theorem leadsTo_lenShifts (hm : s.mode = .idle) (bytes : List Byte) :
    LeadsTo (bytes.map .lenShift) s { s with len := bytes.foldl shiftIn s.len } := by
  induction bytes generalizing s with
  | nil => exact .nil s
  | cons b bytes ih => exact .cons (performs_lenShift hv hm b) (ih (s := { s with len := shiftIn s.len b }) hv hm)

theorem leadsTo_typeShifts (hm : s.mode = .idle) (bytes : List Byte) :
    LeadsTo (bytes.map .typeShift) s { s with type := bytes.foldl shiftIn s.type } := by
  induction bytes generalizing s with
  | nil => exact .nil s
  | cons b bytes ih => exact .cons (performs_typeShift hv hm b) (ih (s := { s with type := shiftIn s.type b }) hv hm)

theorem leadsTo_len32 (hm : s.mode = .idle) (n : Word) : LeadsTo (len32 n) s { s with len := n } := by
  simpa only [foldl_shiftIn_be32, len32] using leadsTo_lenShifts hv hm (be32 n)

theorem leadsTo_type4 (hm : s.mode = .idle) (t : Word) : LeadsTo (type4 t) s { s with type := t } := by
  simpa only [foldl_shiftIn_be32, type4] using leadsTo_typeShifts hv hm (be32 t)

/-- As many data bytes as LEN still asks for: COUNT reaches LEN, and they are folded into CRC_STATE. -/
theorem leadsTo_txBytes (hm : s.mode = .txData) (d : List Byte) (hlen : s.count.toNat + d.length = s.len.toNat) :
    LeadsTo (txBytes d) s (txSent d s) := by
  induction d generalizing s with
  | nil =>
    have hcount : s.count = s.len := BitVec.eq_of_toNat_eq hlen
    rw [txSent, ← hcount]
    simpa [txBytes, push] using LeadsTo.nil s
  | cons b d ih =>
    rw [List.length_cons] at hlen
    have hlt : s.count < s.len := BitVec.lt_def.2 (by omega)
    have hnext : (s.count + 1).toNat + d.length = s.len.toNat := by rw [toNat_add_one_of_lt hlt]; omega
    have hrest := ih (s := { push [b] s with crcState := crcStep s.crcState b, count := s.count + 1 }) hv hm hnext
    refine .cons (performs_txByte hv hm (BitVec.ne_of_lt hlt) b) ?_
    simpa [txBytes, txSent, push] using hrest

/-- TX_START, the data bytes and TX_END, with LEN and TYPE loaded. -/
theorem leadsTo_transmit (hm : s.mode = .idle) {d : List Byte} (hlen : d.length = s.len.toNat) :
    LeadsTo ([.txStart] ++ txBytes d ++ [.txEnd]) s (transmitted d s) := by
  have hstart : LeadsTo [.txStart] s (txStarted s) := .single (performs_txStart hv hm)
  have hsend : LeadsTo (txBytes d) (txStarted s) (txSent d (txStarted s)) :=
    leadsTo_txBytes (s := txStarted s) hv rfl d ((Nat.zero_add _).trans hlen)
  have hend : LeadsTo [.txEnd] (txSent d (txStarted s)) (transmitted d s) := by
    have h := LeadsTo.single (performs_txEnd (s := txSent d (txStarted s)) hv rfl rfl)
    simpa [txSent, txStarted, transmitted, push, crc32, crcFold_append] using h
  exact (hstart.append hsend).append hend

theorem leadsTo_frame (hm : s.mode = .idle) (t : Word) {d : List Byte} (hd : d.length < 2 ^ 32) :
    LeadsTo (frame t d) s (transmitted d (loaded (BitVec.ofNat 32 d.length) t s)) := by
  have hload : LeadsTo (len32 (BitVec.ofNat 32 d.length) ++ type4 t) s (loaded (BitVec.ofNat 32 d.length) t s) :=
    (leadsTo_len32 hv hm _).append (leadsTo_type4 (s := { s with len := BitVec.ofNat 32 d.length }) hv hm t)
  have hsend := leadsTo_transmit (s := loaded (BitVec.ofNat 32 d.length) t s) hv hm (Nat.mod_eq_of_lt hd).symm
  simpa only [frame, List.append_assoc] using hload.append hsend

end

end Sys2Proof.Machine
end

section
/-! SUPPORT. The obligations about the framer: FRAME, LEN_SHIFT, TX_START, TX_BYTE and TX_END. -/

namespace Sys2Proof.Proofs

open Sys2Proof.Machine

/-- Settles O39: the frame's commands lead to `transmitted` up to what the host has popped. -/
theorem frameEmitsSerialization : Obligations.FrameEmitsSerialization := by
  intro t d is s hm hv hd hfilter hspace
  obtain ⟨_, hrun, vs, f, rfl, hpopped⟩ := leadsTo_frame hv hm t hd is s (.refl s) hfilter hspace
  exact ⟨_, vs, hrun, hv, rfl, rfl, rfl, rfl, rfl, hpopped⟩

/-- Settles O31: LEN_SHIFT is a rule of IDLE alone, and its word decodes to it. -/
theorem lenShiftRule : Obligations.LenShiftRule := by
  intro b s
  have hword : (0x08000000 : Word) ||| b.setWidth 32 = encodeCmd (.lenShift b) := cmdWord_zero_or 0x08 b
  rw [hword]
  exact ⟨decodeCmd_encodeCmd _, fun hv => congrArg Host.Outcome.next (unlessPending_of_pending hv _),
    fun hv hm => congrArg Host.Outcome.next (unlessPending_seqError_of_ne hv hm _ _),
    fun hv hm => exec_lenShift_of_idle hv hm b⟩

/-- Settles O36: the checks of TX_START in R74's order, and its effect behind them. -/
theorem txStartRule : Obligations.TxStartRule :=
  ⟨decodeCmd_encodeCmd .txStart, fun _ =>
    ⟨fun hv => congrArg Host.Outcome.next (unlessPending_of_pending hv _),
      fun hv hm => congrArg Host.Outcome.next (unlessPending_seqError_of_ne hv hm _ _),
      exec_txStart_of_lt, exec_txStart_of_le⟩⟩

/-- Settles O37: the checks of TX_BYTE in R75's order, its effect behind them, and COUNT below LEN by R32. -/
theorem txByteRule : Obligations.TxByteRule := by
  intro b s
  have hword : (0x11000000 : Word) ||| b.setWidth 32 = encodeCmd (.txByte b) := cmdWord_zero_or 0x11 b
  rw [hword]
  refine ⟨decodeCmd_encodeCmd _, fun hv => congrArg Host.Outcome.next (unlessPending_of_pending hv _),
    fun hv hm => congrArg Host.Outcome.next (unlessPending_seqError_of_ne hv hm _ _),
    fun hv hm hcount => exec_txByte_of_overrun hv hm hcount b,
    fun hv hm hcount hfree => exec_txByte_of_lt hv hm hcount hfree b,
    fun hv hm hcount hfree => exec_txByte_of_le hv hm hcount hfree b, fun hlegal hm hcount => ?_⟩
  obtain ⟨-, hle, -⟩ := (legal_iff s).1 hlegal
  exact toNat_add_one_of_lt (BitVec.lt_of_le_ne (hle hm) hcount)

/-- Settles O38: the checks of TX_END in R76's order, and its effect behind them. -/
theorem txEndRule : Obligations.TxEndRule :=
  ⟨decodeCmd_encodeCmd .txEnd, fun _ =>
    ⟨fun hv => congrArg Host.Outcome.next (unlessPending_of_pending hv _),
      fun hv hm => congrArg Host.Outcome.next (unlessPending_seqError_of_ne hv hm _ _),
      exec_txEnd_of_underrun, exec_txEnd_of_lt, exec_txEnd_of_le⟩⟩

end Sys2Proof.Proofs
end

section
/-! SUPPORT. The checker's commands without a pending error, outcome by outcome (R80 to R82). -/

namespace Sys2Proof.Machine

/-! ### The end of a byte of a 4-byte field (R81) -/

theorem nextInField_of_eq {s : State} (hidx : s.idx = 3#2) (m : Mode) :
    nextInField m s = { s with idx := 0#2, mode := m } := if_pos hidx

theorem nextInField_of_ne {s : State} (hidx : s.idx ≠ 3#2) (m : Mode) :
    nextInField m s = { s with idx := s.idx + 1#2 } := if_neg hidx

/-- LEN is to come: the effect of RX_START (R80). -/
def rxStarted (s : State) : State :=
  { s with
    len := 0#32, type := 0#32, rxCrc := 0#32, count := 0#32, crcState := crcSeed, idx := 0#2, doneOk := false,
    mode := .rxLen }

section
variable {s : State} (hv : s.errValid = false)
include hv

theorem exec_rxStart_of_idle (hm : s.mode = .idle) : exec .rxStart s = .next (rxStarted s) :=
  congrArg Host.Outcome.next (unlessPending_seqError_of_eq hv hm _ _)

/-! ### RX_BYTE outside a chunk -/

theorem exec_rxByte_of_outside (hm : s.mode = .idle ∨ s.mode = .txData) (b : Byte) :
    exec (.rxByte b) s = .next (errorState 2#4 (encodeCmd (.rxByte b)) s) := by
  obtain hm | hm := hm <;> simp only [exec, execRxByte, unlessPending_of_clear hv, hm, raise_of_clear hv] <;> rfl

/-! ### RX_BYTE in the length field -/

section
variable (hm : s.mode = .rxLen)
include hm

theorem exec_rxByte_of_rxLen (b : Byte) : exec (.rxByte b) s = .next (rxLenByte b s) := by
  simp only [exec, execRxByte, unlessPending_of_clear hv, hm]

theorem exec_rxByte_len_last (hidx : s.idx = 3#2) (b : Byte) :
    exec (.rxByte b) s = .next { s with len := shiftIn s.len b, idx := 0#2, mode := .rxType } := by
  rw [exec_rxByte_of_rxLen hv hm, rxLenByte, nextInField_of_eq (by exact hidx)]

theorem exec_rxByte_len_more (hidx : s.idx ≠ 3#2) (b : Byte) :
    exec (.rxByte b) s = .next { s with len := shiftIn s.len b, idx := s.idx + 1#2 } := by
  rw [exec_rxByte_of_rxLen hv hm, rxLenByte, nextInField_of_ne (by exact hidx)]

end

/-! ### RX_BYTE in the type field -/

section
variable (hm : s.mode = .rxType)
include hm

theorem exec_rxByte_of_rxType (b : Byte) : exec (.rxByte b) s = .next (rxTypeByte b s) := by
  simp only [exec, execRxByte, unlessPending_of_clear hv, hm]

theorem exec_rxByte_type_last (hidx : s.idx = 3#2) (b : Byte) :
    exec (.rxByte b) s = .next
      { s with
        type := shiftIn s.type b, crcState := crcStep s.crcState b, idx := 0#2,
        mode := if s.len = 0#32 then .rxCrc else .rxData } := by
  rw [exec_rxByte_of_rxType hv hm, rxTypeByte, nextInField_of_eq (by exact hidx)]

theorem exec_rxByte_type_more (hidx : s.idx ≠ 3#2) (b : Byte) :
    exec (.rxByte b) s = .next
      { s with type := shiftIn s.type b, crcState := crcStep s.crcState b, idx := s.idx + 1#2 } := by
  rw [exec_rxByte_of_rxType hv hm, rxTypeByte, nextInField_of_ne (by exact hidx)]

end

/-! ### RX_BYTE in the data -/

theorem exec_rxByte_of_rxData (hm : s.mode = .rxData) (b : Byte) : exec (.rxByte b) s = .next (rxDataByte b s) := by
  simp only [exec, execRxByte, unlessPending_of_clear hv, hm]

theorem exec_rxByte_data_last (hm : s.mode = .rxData) (hcount : s.count + 1#32 = s.len) (b : Byte) :
    exec (.rxByte b) s = .next
      { s with crcState := crcStep s.crcState b, count := s.count + 1#32, mode := .rxCrc } := by
  rw [exec_rxByte_of_rxData hv hm, rxDataByte, if_pos hcount]

theorem exec_rxByte_data_more (hm : s.mode = .rxData) (hcount : s.count + 1#32 ≠ s.len) (b : Byte) :
    exec (.rxByte b) s = .next { s with crcState := crcStep s.crcState b, count := s.count + 1#32 } := by
  rw [exec_rxByte_of_rxData hv hm, rxDataByte, if_neg hcount]

/-! ### RX_BYTE in the CRC field -/

section
variable (hm : s.mode = .rxCrc)
include hm

theorem exec_rxByte_of_rxCrc (b : Byte) : exec (.rxByte b) s = .next (rxCrcByte b s) := by
  simp only [exec, execRxByte, unlessPending_of_clear hv, hm]

theorem exec_rxByte_crc_more (hidx : s.idx ≠ 3#2) (b : Byte) :
    exec (.rxByte b) s = .next { s with rxCrc := shiftIn s.rxCrc b, idx := s.idx + 1#2 } := by
  rw [exec_rxByte_of_rxCrc hv hm, rxCrcByte, if_neg hidx]

theorem exec_rxByte_crc_match (hidx : s.idx = 3#2) {b : Byte} (hcrc : shiftIn s.rxCrc b = crcFinal s.crcState) :
    exec (.rxByte b) s = .next
      { s with rxCrc := shiftIn s.rxCrc b, idx := 0#2, mode := .idle, doneOk := true } := by
  rw [exec_rxByte_of_rxCrc hv hm, rxCrcByte, if_pos hidx, if_pos hcrc]

/-- The last byte stays in RX_CRC (R55, R81). -/
theorem exec_rxByte_crc_mismatch (hidx : s.idx = 3#2) {b : Byte} (hcrc : shiftIn s.rxCrc b ≠ crcFinal s.crcState) :
    exec (.rxByte b) s = .next
      (errorState 7#4 (encodeCmd (.rxByte b)) { s with rxCrc := shiftIn s.rxCrc b }) := by
  rw [exec_rxByte_of_rxCrc hv hm, rxCrcByte, if_pos hidx, if_neg hcrc, raise_of_clear (by exact hv)]
  rfl

end

/-! ### RX_END -/

theorem exec_rxEnd_of_idle (hm : s.mode = .idle) : exec .rxEnd s = .next s := by
  simp only [exec, execRxEnd, unlessPending_of_clear hv, hm]

theorem exec_rxEnd_of_txData (hm : s.mode = .txData) :
    exec .rxEnd s = .next (errorState 2#4 (encodeCmd .rxEnd) s) := by
  simp only [exec, execRxEnd, unlessPending_of_clear hv, hm, raise_of_clear hv]
  rfl

theorem exec_rxEnd_of_inside (hm : s.mode = .rxLen ∨ s.mode = .rxType ∨ s.mode = .rxData ∨ s.mode = .rxCrc) :
    exec .rxEnd s = .next (errorState 6#4 (encodeCmd .rxEnd) s) := by
  obtain hm | hm | hm | hm := hm <;>
    simp only [exec, execRxEnd, unlessPending_of_clear hv, hm, raise_of_clear hv] <;> rfl

end

end Sys2Proof.Machine
end

section
/-! SUPPORT. The obligations about the checker's commands: RX_START, RX_BYTE and RX_END. -/

namespace Sys2Proof.Proofs

open Sys2Proof.Machine

/-- Settles O41: RX_START is a rule of IDLE alone. -/
theorem rxStartRule : Obligations.RxStartRule :=
  ⟨decodeCmd_encodeCmd .rxStart, typeInfo_zero, fun _ =>
    ⟨fun hv => congrArg Host.Outcome.next (unlessPending_of_pending hv _),
      fun hv hm => congrArg Host.Outcome.next (unlessPending_seqError_of_ne hv hm _ _), exec_rxStart_of_idle⟩⟩

/-- Settles O42: the rule of each mode, clause by clause, and its word decodes to it. -/
theorem rxByteRule : Obligations.RxByteRule := by
  intro b s w len' type' rxCrc'
  have hword : w = encodeCmd (.rxByte b) := cmdWord_zero_or 0x21 b
  rw [hword]
  refine ⟨decodeCmd_encodeCmd _, fun hv => congrArg Host.Outcome.next (unlessPending_of_pending hv _), fun hv =>
    ⟨fun hm => exec_rxByte_of_outside hv hm b, fun hm hidx => exec_rxByte_len_last hv hm hidx b,
      fun hm hidx => exec_rxByte_len_more hv hm hidx b, fun hm hidx hlen => ?skip, fun hm hidx hlen => ?data,
      fun hm hidx => exec_rxByte_type_more hv hm hidx b, fun hm hcount => exec_rxByte_data_last hv hm hcount b,
      fun hm hcount => exec_rxByte_data_more hv hm hcount b, fun hm hidx => exec_rxByte_crc_more hv hm hidx b,
      fun hm hidx hcrc => exec_rxByte_crc_match hv hm hidx hcrc,
      fun hm hidx hcrc => exec_rxByte_crc_mismatch hv hm hidx hcrc⟩⟩
  case skip => rw [exec_rxByte_type_last hv hm hidx, if_pos (c := s.len = 0#32) hlen]; rfl
  case data => rw [exec_rxByte_type_last hv hm hidx, if_neg (c := s.len = 0#32) hlen]; rfl

/-- Settles O43: RX_END in each mode. -/
theorem rxEndRule : Obligations.RxEndRule :=
  ⟨decodeCmd_encodeCmd .rxEnd, fun _ =>
    ⟨fun hv => congrArg Host.Outcome.next (unlessPending_of_pending hv _), exec_rxEnd_of_idle, exec_rxEnd_of_txData,
      exec_rxEnd_of_inside⟩⟩

end Sys2Proof.Proofs
end

section
/-! SUPPORT. The bytes of a chunk field by field, and what `chunk_parse` makes of them (R72, R79). -/

namespace Sys2Proof.Machine

theorem be32_ofBe32 (b0 b1 b2 b3 : Byte) : be32 (ofBe32 b0 b1 b2 b3) = [b0, b1, b2, b3] := by
  have hlow {n : Nat} (v : BitVec n) (b : Byte) : (v ++ b).extractLsb' 0 8 = b :=
    (BitVec.extractLsb'_append_eq_of_add_le (by decide)).trans BitVec.extractLsb'_eq_self
  have hhigh {n k : Nat} (hk : 8 ≤ k) (v : BitVec n) (b : Byte) : (v ++ b).extractLsb' k 8 = v.extractLsb' (k - 8) 8 :=
    BitVec.extractLsb'_append_eq_of_le hk
  have h3 : (ofBe32 b0 b1 b2 b3).extractLsb' 0 8 = b3 := hlow _ b3
  have h2 : (ofBe32 b0 b1 b2 b3).extractLsb' 8 8 = b2 := (hhigh (by decide) _ b3).trans (hlow _ b2)
  have h1 : (ofBe32 b0 b1 b2 b3).extractLsb' 16 8 = b1 :=
    (hhigh (by decide) _ b3).trans ((hhigh (by decide) _ b2).trans (hlow b0 b1))
  have h0 : (ofBe32 b0 b1 b2 b3).extractLsb' 24 8 = b0 :=
    (hhigh (by decide) _ b3).trans ((hhigh (by decide) _ b2).trans ((hhigh (by decide) b0 b1).trans
      BitVec.extractLsb'_eq_self))
  rw [be32, h0, h1, h2, h3]

/-- Four bytes are a word's. -/
theorem exists_be32_append {p : List Byte} (h : 4 ≤ p.length) : ∃ n q, p = be32 n ++ q := by
  match p with
  | b0 :: b1 :: b2 :: b3 :: q => exact ⟨ofBe32 b0 b1 b2 b3, q, by rw [be32_ofBe32]; rfl⟩

@[simp] theorem declaredLength_be32_append (n : Word) (q : List Byte) : declaredLength (be32 n ++ q) = n.toNat :=
  congrArg BitVec.toNat (ofBe32_be32 n)

/-- The bytes of a chunk with the length `n`, the type `t`, the data `d` and the CRC `c`. -/
def chunkBytes (n t : Word) (d : List Byte) (c : Word) : List Byte := be32 n ++ (be32 t ++ (d ++ be32 c))

theorem chunkBytes_length (n t : Word) (d : List Byte) (c : Word) : (chunkBytes n t d c).length = 12 + d.length := by
  simp [chunkBytes]
  omega

theorem chunkSerialize_eq (t : Word) (d : List Byte) :
    chunkSerialize t d = chunkBytes (BitVec.ofNat 32 d.length) t d (crc32 (be32 t ++ d)) := by
  simp [chunkSerialize, chunkBytes]

/-- The last byte of a chunk is the last of its CRC. -/
theorem chunkBytes_getLast? (n t : Word) (d : List Byte) (c : Word) :
    (chunkBytes n t d c).getLast? = some (c.extractLsb' 0 8) := by
  have hcrc : (be32 c).getLast? = some (c.extractLsb' 0 8) := rfl
  simp [chunkBytes, List.getLast?_append, hcrc]

/-- As many bytes as the declared length asks for are a chunk. -/
theorem exists_chunkBytes {p : List Byte} (h : 12 + declaredLength p ≤ p.length) :
    ∃ n t d c rest, p = chunkBytes n t d c ++ rest ∧ d.length = n.toNat := by
  obtain ⟨n, q, rfl⟩ := exists_be32_append (p := p) (by omega)
  rw [declaredLength_be32_append, List.length_append, be32_length] at h
  obtain ⟨t, body, rfl⟩ := exists_be32_append (p := q) (by omega)
  rw [List.length_append, be32_length] at h
  obtain ⟨c, rest, hc⟩ := exists_be32_append (p := body.drop n.toNat) (by rw [List.length_drop]; omega)
  refine ⟨n, t, body.take n.toNat, c, rest, ?_, List.length_take_of_le (by omega)⟩
  simp only [chunkBytes, List.append_assoc, ← hc, List.take_append_drop]

/-- The parse of a chunk's bytes is decided by its CRC (R79). -/
theorem chunkParse_chunkBytes (n t : Word) {d : List Byte} (c : Word) (rest : List Byte) (hd : d.length = n.toNat) :
    chunkParse (chunkBytes n t d c ++ rest) =
      if c = crc32 (be32 t ++ d) then .ok { len := n, type := t, data := d, crc := c, rest := rest }
      else .error .crcMismatch := by
  simp only [chunkBytes, be32, List.append_assoc, List.cons_append, List.nil_append, chunkParse, ofBe32_be32, ← hd,
    List.take_left, List.drop_left]
  rfl

/-- Fewer bytes than the declared length asks for do not parse (R79). -/
theorem chunkParse_of_short {p : List Byte} (h : p.length < 12 + declaredLength p) :
    chunkParse p = .error .unexpectedEof := by
  unfold chunkParse
  split
  case h_1 l0 l1 l2 l3 t0 t1 t2 t3 body =>
    dsimp only
    split
    case h_1 c0 c1 c2 c3 rest hdrop =>
      have hlen := congrArg List.length hdrop
      simp only [List.length_drop, List.length_cons, declaredLength] at hlen h
      omega
    case h_2 => rfl
  case h_2 => rfl

/-- What parses is as long as it declares. -/
theorem le_length_of_chunkParse {p : List Byte} (h : chunkParse p ≠ .error .unexpectedEof) :
    12 + declaredLength p ≤ p.length := Nat.le_of_not_lt (mt chunkParse_of_short h)

/-- A parse with a result has found a chunk with its CRC. -/
theorem chunk_of_chunkParse_ok {p : List Byte} {r : ParsedChunk} (h : chunkParse p = .ok r) :
    p = chunkBytes r.len r.type r.data r.crc ++ r.rest ∧ r.data.length = r.len.toNat ∧
      r.crc = crc32 (be32 r.type ++ r.data) := by
  obtain ⟨n, t, d, c, rest, rfl, hd⟩ := exists_chunkBytes (le_length_of_chunkParse (by rw [h]; nofun))
  rw [chunkParse_chunkBytes n t c rest hd] at h
  split at h
  case isTrue hcrc =>
    obtain rfl := Except.ok.inj h
    exact ⟨rfl, hd, hcrc⟩
  case isFalse => cases h

/-- A parse with CRC_MISMATCH has found a chunk with another CRC. -/
theorem chunk_of_chunkParse_crcMismatch {p : List Byte} (h : chunkParse p = .error .crcMismatch) :
    ∃ n t d c rest, p = chunkBytes n t d c ++ rest ∧ d.length = n.toNat ∧ c ≠ crc32 (be32 t ++ d) := by
  obtain ⟨n, t, d, c, rest, rfl, hd⟩ := exists_chunkBytes (le_length_of_chunkParse (by rw [h]; nofun))
  rw [chunkParse_chunkBytes n t c rest hd] at h
  split at h
  case isTrue => cases h
  case isFalse hcrc => exact ⟨n, t, d, c, rest, rfl, hd, hcrc⟩

@[simp] theorem declaredLength_chunkBytes_append (n t : Word) (d : List Byte) (c : Word) (rest : List Byte) :
    declaredLength (chunkBytes n t d c ++ rest) = n.toNat := by
  rw [chunkBytes, List.append_assoc, declaredLength_be32_append]

end Sys2Proof.Machine
end

section
/-! SUPPORT. A chunk fed to the checker: whole, field by field, and cut short (R83). -/

namespace Sys2Proof.Machine

theorem rxBytes_append (p q : List Byte) : rxBytes (p ++ q) = rxBytes p ++ rxBytes q := List.map_append

/-! ### The checker's state along a chunk (R80, R81) -/

/-- LEN is in, and the type field is to come. -/
def rxLenIn (n : Word) (s : State) : State := { rxStarted s with len := n, mode := .rxType }

/-- LEN and TYPE are in, and COUNT is still 0. -/
def rxTypeIn (n t : Word) (s : State) : State :=
  { rxLenIn n s with
    type := t, crcState := crcFold crcSeed (be32 t), mode := if n = 0#32 then .rxCrc else .rxData }

/-- LEN, TYPE and the data are in, and the CRC field is to come. -/
def rxDataIn (n t : Word) (d : List Byte) (s : State) : State :=
  { rxTypeIn n t s with crcState := crcFold crcSeed (be32 t ++ d), count := n, mode := .rxCrc }

/-- The computed CRC is the CRC of the type and data bytes. -/
theorem crcFinal_rxDataIn (n t : Word) (d : List Byte) (s : State) :
    crcFinal (rxDataIn n t d s).crcState = crc32 (be32 t ++ d) := by
  simp only [rxDataIn, crc32]

/-- The CRC `c` is in, and it is the computed one. -/
def rxMatched (n t : Word) (d : List Byte) (c : Word) (s : State) : State :=
  { rxDataIn n t d s with rxCrc := c, mode := .idle, doneOk := true }

/-- The CRC `c` is in, and it is another than the computed one. -/
def rxMismatched (n t : Word) (d : List Byte) (c : Word) (s : State) : State :=
  errorState 7#4 (encodeCmd (.rxByte (c.extractLsb' 0 8))) { rxDataIn n t d s with rxCrc := c }

section
variable {s : State} (hv : s.errValid = false)
include hv

/-! ### The fields of a whole chunk -/

theorem runAll_rxBytes_len (hm : s.mode = .rxLen) (hidx : s.idx = 0#2) (n : Word) :
    runAll (rxBytes (be32 n)) s = .next { s with len := n, idx := 0#2, mode := .rxType } := by
  have hlen := foldl_shiftIn_be32 s.len n
  simpa [rxBytes, be32, runAll, exec_rxByte_of_rxLen, rxLenByte, nextInField, hv, hm, hidx] using hlen

theorem runAll_rxBytes_type (hm : s.mode = .rxType) (hidx : s.idx = 0#2) (t : Word) :
    runAll (rxBytes (be32 t)) s = .next
      { s with
        type := t, crcState := crcFold s.crcState (be32 t), idx := 0#2,
        mode := if s.len = 0#32 then .rxCrc else .rxData } := by
  have htype := foldl_shiftIn_be32 s.type t
  simpa [rxBytes, be32, runAll, exec_rxByte_of_rxType, rxTypeByte, nextInField, hv, hm, hidx] using htype

/-- As many data bytes as LEN still asks for: COUNT reaches LEN, and they are folded into CRC_STATE. -/
theorem runAll_rxBytes_data (hm : s.mode = if s.count = s.len then .rxCrc else .rxData) {d : List Byte}
    (hlen : s.count.toNat + d.length = s.len.toNat) :
    runAll (rxBytes d) s = .next { s with crcState := crcFold s.crcState d, count := s.len, mode := .rxCrc } := by
  induction d generalizing s with
  | nil =>
    have hcount : s.count = s.len := BitVec.eq_of_toNat_eq hlen
    rw [if_pos hcount] at hm
    have hkeep {c : Word} {m : Mode} (hc : s.count = c) (hm : s.mode = m) : s = { s with count := c, mode := m } := by
      rw [← hc, ← hm]
    exact congrArg Host.Outcome.next (hkeep hcount hm)
  | cons b d ih =>
    rw [List.length_cons] at hlen
    have hlt : s.count < s.len := BitVec.lt_def.2 (by omega)
    rw [if_neg (BitVec.ne_of_lt hlt)] at hm
    have hnext : (s.count + 1).toNat + d.length = s.len.toNat := by rw [toNat_add_one_of_lt hlt]; omega
    have hmode : (rxDataByte b s).mode = if s.count + 1 = s.len then .rxCrc else .rxData := by rw [← hm]; rfl
    exact (runAll_cons (exec_rxByte_of_rxData hv hm b) _).trans (ih (s := rxDataByte b s) hv hmode hnext)

/-- The CRC field, compared with the computed CRC at its fourth byte. -/
theorem runAll_rxBytes_crc (hm : s.mode = .rxCrc) (hidx : s.idx = 0#2) (c : Word) :
    runAll (rxBytes (be32 c)) s = .next
      (if c = crcFinal s.crcState then { s with rxCrc := c, idx := 0#2, mode := .idle, doneOk := true }
      else errorState 7#4 (encodeCmd (.rxByte (c.extractLsb' 0 8))) { s with rxCrc := c }) := by
  have hcrc : shiftIn (shiftIn (shiftIn (shiftIn s.rxCrc (c.extractLsb' 24 8)) (c.extractLsb' 16 8))
      (c.extractLsb' 8 8)) (c.extractLsb' 0 8) = c := foldl_shiftIn_be32 s.rxCrc c
  simp [rxBytes, be32, runAll, exec_rxByte_of_rxCrc, rxCrcByte, hv, hm, hidx, hcrc, raise_of_clear, errorState,
    ErrKind.code]

/-! ### A whole chunk -/

section
variable (hm : s.mode = .idle)
include hm

theorem runAll_rxStart_len (n : Word) : runAll ([Instr.rxStart] ++ rxBytes (be32 n)) s = .next (rxLenIn n s) :=
  (runAll_cons (exec_rxStart_of_idle hv hm) _).trans (runAll_rxBytes_len (s := rxStarted s) hv rfl rfl n)

/-- RX_START and the bytes before the CRC field. -/
theorem runAll_rxStart_data (n t : Word) {d : List Byte} (hd : d.length = n.toNat) :
    runAll ([Instr.rxStart] ++ rxBytes (be32 n) ++ (rxBytes (be32 t) ++ rxBytes d)) s = .next (rxDataIn n t d s) := by
  have htype : runAll (rxBytes (be32 t)) (rxLenIn n s) = .next (rxTypeIn n t s) :=
    runAll_rxBytes_type (s := rxLenIn n s) hv rfl rfl t
  have hdata := runAll_rxBytes_data (s := rxTypeIn n t s) hv (if_congr eq_comm rfl rfl) ((Nat.zero_add _).trans hd)
  rw [runAll_append (runAll_rxStart_len hv hm n), runAll_append htype, hdata, rxDataIn, crcFold_append]
  rfl

/-- CHECK of a whole chunk is decided by its CRC; RX_END has no effect after either outcome. -/
theorem runAll_check_chunkBytes (n t : Word) {d : List Byte} (c : Word) (hd : d.length = n.toNat) :
    runAll (check (chunkBytes n t d c)) s =
      .next (if c = crc32 (be32 t ++ d) then rxMatched n t d c s else rxMismatched n t d c s) := by
  have hcheck : check (chunkBytes n t d c) =
      [Instr.rxStart] ++ rxBytes (be32 n) ++ (rxBytes (be32 t) ++ rxBytes d) ++
        (rxBytes (be32 c) ++ [Instr.rxEnd]) := by
    simp only [check, chunkBytes, rxBytes_append, List.append_assoc]
  have hcrc := runAll_rxBytes_crc (s := rxDataIn n t d s) hv rfl rfl c
  rw [crcFinal_rxDataIn] at hcrc
  rw [hcheck, runAll_append (runAll_rxStart_data hv hm n t hd), runAll_append hcrc]
  split
  · have hend : exec .rxEnd (rxMatched n t d c s) = .next (rxMatched n t d c s) := exec_rxEnd_of_idle hv rfl
    exact runAll_cons hend []
  · have hend : exec .rxEnd (rxMismatched n t d c s) = .next (rxMismatched n t d c s) :=
      exec_toInstr_of_pending (c := .rxEnd) (by decide) rfl
    exact runAll_cons hend []

end

end

/-! ### A chunk cut short -/

/-- `s` is inside a chunk, without a pending error, and at least `n` bytes of the chunk are to come. -/
inductive Awaits (n : Nat) (s : State) : Prop
  | len (hv : s.errValid = false) (hm : s.mode = .rxLen) (hcount : s.count = 0#32) (hn : n + s.idx.toNat ≤ 12)
  | type (hv : s.errValid = false) (hm : s.mode = .rxType) (hcount : s.count = 0#32)
      (hn : n + s.idx.toNat ≤ s.len.toNat + 8)
  | data (hv : s.errValid = false) (hm : s.mode = .rxData) (hidx : s.idx = 0#2) (hcount : s.count < s.len)
      (hn : n + s.count.toNat ≤ s.len.toNat + 4)
  | crc (hv : s.errValid = false) (hm : s.mode = .rxCrc) (hn : n + s.idx.toNat ≤ 4)

/-- IDX before the last byte of a field does not wrap when it is stepped. -/
theorem toNat_idx_add_one {idx : BitVec 2} (h : idx ≠ 3#2) : (idx + 1#2).toNat = idx.toNat + 1 := by
  bv_omega

/-- A byte that is not the chunk's last leads on inside the chunk. -/
theorem Awaits.exec_rxByte {n : Nat} {s : State} (hpos : 0 < n) (h : Awaits (n + 1) s) (b : Byte) :
    ∃ t, exec (.rxByte b) s = .next t ∧ Awaits n t := by
  have hthree : s.idx = 3#2 → s.idx.toNat = 3 := congrArg BitVec.toNat
  cases h with
  | len hv hm hcount hn =>
    by_cases hidx : s.idx = 3#2
    · have hn' : n + 0 ≤ (shiftIn s.len b).toNat + 8 := by have := hthree hidx; omega
      exact ⟨_, exec_rxByte_len_last hv hm hidx b, .type hv rfl hcount hn'⟩
    · have hn' : n + (s.idx + 1#2).toNat ≤ 12 := by rw [toNat_idx_add_one hidx]; omega
      exact ⟨_, exec_rxByte_len_more hv hm hidx b, .len hv hm hcount hn'⟩
  | type hv hm hcount hn =>
    by_cases hidx : s.idx = 3#2
    · have hrest : n ≤ s.len.toNat + 4 := by have := hthree hidx; omega
      refine ⟨_, exec_rxByte_type_last hv hm hidx b, ?_⟩
      by_cases hlen : s.len = 0#32
      · exact .crc hv (if_pos hlen) (by rwa [hlen] at hrest)
      · have hlt : s.count < s.len := by rw [hcount]; bv_omega
        exact .data hv (if_neg hlen) rfl hlt (by rwa [hcount])
    · have hn' : n + (s.idx + 1#2).toNat ≤ s.len.toNat + 8 := by rw [toNat_idx_add_one hidx]; omega
      exact ⟨_, exec_rxByte_type_more hv hm hidx b, .type hv hm hcount hn'⟩
  | data hv hm hidx hcount hn =>
    have hnext : (s.count + 1#32).toNat = s.count.toNat + 1 := toNat_add_one_of_lt hcount
    by_cases hlast : s.count + 1#32 = s.len
    · have hrest : n + 0 ≤ 4 := by rw [← hlast, hnext] at hn; omega
      exact ⟨_, exec_rxByte_data_last hv hm hlast b, .crc hv rfl (by rwa [hidx])⟩
    · have hlt : s.count + 1#32 < s.len := BitVec.lt_of_le_ne (BitVec.le_def.2 (by rw [hnext]; exact hcount)) hlast
      have hn' : n + (s.count + 1#32).toNat ≤ s.len.toNat + 4 := by rw [hnext]; omega
      exact ⟨_, exec_rxByte_data_more hv hm hlast b, .data hv hm hidx hlt hn'⟩
  | crc hv hm hn =>
    have hidx : s.idx ≠ 3#2 := fun h => by have := hthree h; omega
    have hn' : n + (s.idx + 1#2).toNat ≤ 4 := by rw [toNat_idx_add_one hidx]; omega
    exact ⟨_, exec_rxByte_crc_more hv hm hidx b, .crc hv hm hn'⟩

/-- Fewer bytes than are to come end inside the chunk. -/
theorem Awaits.runAll_rxBytes {p : List Byte} {s : State} (h : Awaits (p.length + 1) s) :
    ∃ t, runAll (rxBytes p) s = .next t ∧ Awaits 1 t := by
  induction p generalizing s with
  | nil => exact ⟨s, rfl, h⟩
  | cons b p ih =>
    obtain ⟨t, ht, hnext⟩ := h.exec_rxByte (Nat.succ_pos _) b
    obtain ⟨u, hu, hlast⟩ := ih hnext
    exact ⟨u, (runAll_cons ht _).trans hu, hlast⟩

/-- The input ends inside the chunk (R82). -/
theorem Awaits.exec_rxEnd {n : Nat} {s : State} (h : Awaits n s) :
    exec .rxEnd s = .next (errorState 6#4 (encodeCmd .rxEnd) s) := by
  cases h with
  | len hv hm => exact exec_rxEnd_of_inside hv (.inl hm)
  | type hv hm => exact exec_rxEnd_of_inside hv (.inr (.inl hm))
  | data hv hm => exact exec_rxEnd_of_inside hv (.inr (.inr (.inl hm)))
  | crc hv hm => exact exec_rxEnd_of_inside hv (.inr (.inr (.inr hm)))

section
variable {s : State} (hv : s.errValid = false) (hm : s.mode = .idle)
include hv hm

/-- Fewer bytes than the declared length asks for end inside the chunk. -/
theorem exists_runAll_rxStart_of_short {p : List Byte} (h : p.length < 12 + declaredLength p) :
    ∃ t, runAll ([Instr.rxStart] ++ rxBytes p) s = .next t ∧ Awaits 1 t := by
  by_cases hlen : 4 ≤ p.length
  · obtain ⟨n, q, rfl⟩ := exists_be32_append hlen
    rw [declaredLength_be32_append, List.length_append, be32_length] at h
    have hq : Awaits (q.length + 1) (rxLenIn n s) :=
      .type hv rfl rfl (show q.length + 1 + 0 ≤ n.toNat + 8 by omega)
    obtain ⟨t, ht, hlast⟩ := hq.runAll_rxBytes
    rw [rxBytes_append, ← List.append_assoc, runAll_append (runAll_rxStart_len hv hm n)]
    exact ⟨t, ht, hlast⟩
  · have hp : Awaits (p.length + 1) (rxStarted s) := .len hv rfl rfl (show p.length + 1 + 0 ≤ 12 by omega)
    obtain ⟨t, ht, hlast⟩ := hp.runAll_rxBytes
    exact ⟨t, (runAll_cons (exec_rxStart_of_idle hv hm) _).trans ht, hlast⟩

/-- CHECK of fewer bytes than the declared length asks for ends in UNEXPECTED_EOF. -/
theorem runAll_check_of_short {p : List Byte} (h : p.length < 12 + declaredLength p) :
    ∃ t, runAll (check p) s = .next (errorState 6#4 (encodeCmd .rxEnd) t) := by
  obtain ⟨t, ht, hlast⟩ := exists_runAll_rxStart_of_short hv hm h
  exact ⟨t, (runAll_append ht _).trans (runAll_cons hlast.exec_rxEnd [])⟩

end

end Sys2Proof.Machine
end

section
/-! SUPPORT. The obligation about the checker's verdict. -/

namespace Sys2Proof.Proofs

open Sys2Proof.Machine

/-- Settles O45: a sequence with the bytes its length declares is a chunk's, whose CRC decides both verdicts; a shorter
one ends inside the chunk in both. -/
theorem checkerAgreesWithParse : Obligations.CheckerAgreesWithParse := by
  intro p s hm hv
  refine ⟨?whole, ?mismatch, ?short, ?serialized⟩
  case whole =>
    intro r hparse hrest
    obtain ⟨hp, hd, hcrc⟩ := chunk_of_chunkParse_ok hparse
    rw [hp, hrest, List.append_nil, runAll_check_chunkBytes hv hm _ _ _ hd, if_pos hcrc]
    rfl
  case mismatch =>
    intro x _ hlen hparse hlast
    obtain ⟨n, t, d, c, rest, rfl, hd, hcrc⟩ := chunk_of_chunkParse_crcMismatch hparse
    have hrest : rest = [] := List.eq_nil_of_length_eq_zero (by
      rw [declaredLength_chunkBytes_append, List.length_append, chunkBytes_length] at hlen
      omega)
    rw [hrest, List.append_nil] at hlast ⊢
    obtain rfl : c.extractLsb' 0 8 = x := Option.some.inj ((chunkBytes_getLast? n t d c).symm.trans hlast)
    rw [runAll_check_chunkBytes hv hm n t c hd, if_neg hcrc]
    exact ⟨_, rfl, rfl, rfl, (cmdWord_zero_or 0x21 _).symm, rfl, rfl⟩
  case short =>
    intro h
    have hshort : p.length < 12 + declaredLength p := by omega
    obtain ⟨t, ht⟩ := runAll_check_of_short hv hm hshort
    exact ⟨chunkParse_of_short hshort, _, ht, rfl, rfl, rfl, rfl, rfl⟩
  case serialized =>
    intro t d hd
    rw [chunkSerialize_eq, runAll_check_chunkBytes hv hm _ t _ (Nat.mod_eq_of_lt hd).symm, if_pos rfl]
    rfl

end Sys2Proof.Proofs
end

section
/-! SUPPORT. The accesses outside the interface (R88) and the reads of OUT (R85), one and many. -/

namespace Sys2Proof

/-! ### Accesses outside the interface (R35, R88) -/

/-- An address in the window is decoded by its distance from BASE. -/
theorem windowOffset_of_inside {c : Config} {addr : Nat} (h : ¬(addr < c.base ∨ c.base + 64 ≤ addr)) :
    windowOffset c addr 4 = .ok (BitVec.ofNat 6 (addr - c.base)) := by
  rw [windowOffset, if_neg (not_not.2 rfl), if_neg h]

/-- An access of the wrong width, outside the window or misaligned decodes to no instruction, in either direction. -/
theorem decodeAccess_of_outsideInterface {c : Config} {addr size : Nat}
    (h : size ≠ 4 ∨ addr < c.base ∨ c.base + 64 ≤ addr ∨ (addr - c.base) % 4 ≠ 0) (data : Word) :
    ∃ e, decodeAccess c (.memRead addr size) = .error e ∧ decodeAccess c (.memWrite addr size data) = .error e := by
  by_cases hsize : size = 4
  case neg => exact ⟨_, decodeAccess_of_windowOffset_error (windowOffset_of_size_ne hsize c addr) data⟩
  subst hsize
  by_cases hout : addr < c.base ∨ c.base + 64 ≤ addr
  case pos => exact ⟨_, decodeAccess_of_windowOffset_error (windowOffset_of_outside hout) data⟩
  have hoff : (BitVec.ofNat 6 (addr - c.base)).toNat % 4 ≠ 0 := by
    rw [BitVec.toNat_ofNat]
    omega
  obtain ⟨hread, hwrite⟩ := decodeAccess_of_windowOffset_ok (windowOffset_of_inside hout) data
  exact ⟨_, hread.trans (decodeRead_misaligned hoff), hwrite.trans (decodeWrite_misaligned hoff data)⟩

namespace Machine

/-- A next access that decodes to no instruction is refused. -/
theorem step_of_decodeAccess_error {s : State} {a : Access} {rest : List Access} {why : BadAccess}
    (hlegal : s.legal = true) (hpending : s.pending = a :: rest) (h : decodeAccess s.cfg a = .error why) :
    step s = .refused (.badAccess why) := by
  simp only [step, hlegal, hpending, h, if_true]

/-! ### Reads of OUT (R85) -/

/-- A read of the empty FIFO returns 0 and pops nothing. -/
theorem exec_rdOut_of_nil {s : State} (h : s.fifo = []) : exec .rdOut s = .next (observe 0x00000000 s) := by
  have hword : outWord s = 0x00000000 := by simp [outWord, h]
  have hdrop : dropHead s = s := by rw [dropHead, h, List.tail_nil, ← h]
  rw [exec, execRdOut, hword, hdrop]

/-- A read of a FIFO with a head returns it with VALID set and leaves the rest. -/
theorem exec_rdOut_of_cons {s : State} {b : Byte} {rest : List Byte} (h : s.fifo = b :: rest) :
    exec .rdOut s = .next (observe (0x00000100 ||| b.setWidth 32) { s with fifo := rest }) := by
  have hword : outWord s = 0x00000100 ||| b.setWidth 32 := by simp [outWord, h, zext32]
  have hdrop : dropHead s = { s with fifo := rest } := by rw [dropHead, h, List.tail_cons]
  rw [exec, execRdOut, hword, hdrop]

/-- `DRAIN (k + 1)` is a read of OUT and then `DRAIN k` (R52). -/
theorem runAll_drain_succ {s t : State} (h : exec .rdOut s = .next t) (k : Nat) :
    runAll (drain (k + 1)) s = runAll (drain k) t :=
  runAll_cons h (drain k)

end Machine

end Sys2Proof
end

section
/-! SUPPORT. The obligations about the bus operations: the accesses refused, the plain reads, the reads of OUT, and the
accesses that change nothing. -/

namespace Sys2Proof.Proofs

open Sys2Proof.Machine

/-- Settles O53, by induction on the number of reads: each one takes the head, or returns 0 once the FIFO is empty. -/
theorem drainReturnsPushOrder : Obligations.DrainReturnsPushOrder := by
  intro k
  induction k with
  | zero => intro s; simp [drain]
  | succ k ih =>
    intro s
    cases hfifo : s.fifo with
    | nil =>
      rw [runAll_drain_succ (exec_rdOut_of_nil hfifo), ih]
      simp [observe, hfifo, List.replicate_succ]
    | cons b rest =>
      rw [runAll_drain_succ (exec_rdOut_of_cons hfifo), ih]
      simp [observe]

/-- Settles O10: the access decodes to no instruction, and `step` refuses it for the decoder's reason. -/
theorem accessOutsideInterfaceIsRefused : Obligations.AccessOutsideInterfaceIsRefused := by
  intro s addr size data rest hlegal houtside hpending
  obtain ⟨why, hread, hwrite⟩ := decodeAccess_of_outsideInterface houtside data
  obtain hpending | hpending := hpending
  · exact ⟨why, step_of_decodeAccess_error hlegal hpending hread⟩
  · exact ⟨why, step_of_decodeAccess_error hlegal hpending hwrite⟩

/-- Settles O48: the meaning of a plain read is `observe` of its register's value. -/
theorem plainReadsReturnRegisters : Obligations.PlainReadsReturnRegisters := fun _ =>
  ⟨rfl, rfl, rfl, rfl, rfl, rfl, rfl, rfl, rfl, rfl, rfl⟩

/-- Settles O52, by whether the FIFO has a head. -/
theorem outReadRule : Obligations.OutReadRule := fun _ =>
  ⟨exec_rdOut_of_nil, fun _ _ => exec_rdOut_of_cons⟩

/-- Settles O54: the two reads are `observe` of 0, and the decoder ignores an aligned write outside CMD. -/
theorem inertAccesses : Obligations.InertAccesses := fun _ =>
  ⟨rfl, fun _ => rfl, fun _ _ => rfl, fun _ data halign hcmd => decodeWrite_ignored halign hcmd data⟩

end Sys2Proof.Proofs
end

section
/-! SUPPORT. What a command word does where no error is pending, by the checks of R91: the state that `errorOf`'s answer
leads to. -/

namespace Sys2Proof.Machine

/-- The state after an error (R55, R92): the error commit, and for CRC_MISMATCH the command's byte shifted into RX_CRC. -/
def afterError (e : ErrKind) (w : Word) (s : State) : State :=
  errorState e.code w { s with rxCrc := if e = .crcMismatch then shiftIn s.rxCrc (immField w) else s.rxCrc }

/-- `t` is what the word `w` makes of `s` when R91's checks answer `o`: no error is pending, or the error is taken. -/
def Decides (w : Word) (s : State) : Option ErrKind → State → Prop
  | none, t => t.errValid = false
  | some e, t => t = afterError e w s

/-- CRC_MISMATCH is the kind of code 7 (R89). -/
theorem ErrKind.code_eq_seven_iff (e : ErrKind) : e.code = 7#4 ↔ e = .crcMismatch := by
  cases e <;> decide

/-- Checks 4 to 6 of R91. -/
def laterErrorOf (c : Cmd) (s : State) : Option ErrKind :=
  (countError c s).orElse fun _ => if s.free < spaceNeeded c.toInstr then some .outOverflow else streamError c s

/-- A command's word passes check 2, and check 3 comes before the later ones. -/
theorem errorOf_encodeCmd (c : Cmd) (s : State) :
    errorOf (encodeCmd c) s = if legality c s.mode = .seq then some .seqError else laterErrorOf c s := by
  rw [errorOf, decodeCmd_encodeCmd]
  rfl

/-- RX_BYTE has no check of COUNT or of the FIFO's space. -/
theorem laterErrorOf_rxByte (b : Byte) (s : State) : laterErrorOf (.rxByte b) s = streamError (.rxByte b) s := rfl

/-- RX_BYTE compares a CRC in the CRC field only (R81). -/
theorem streamError_rxByte_of_ne {s : State} (hm : s.mode ≠ .rxCrc) (b : Byte) : streamError (.rxByte b) s = none :=
  if_neg fun h => hm h.1

/-- RX_END has no check of COUNT or of the FIFO's space. -/
theorem laterErrorOf_rxEnd (s : State) :
    laterErrorOf .rxEnd s = if s.mode = .idle then none else some .unexpectedEof := rfl

/-- `nextInField` leaves ERR_VALID. -/
@[simp] theorem nextInField_errValid (m : Mode) (s : State) : (nextInField m s).errValid = s.errValid := by
  obtain ⟨-, h⟩ | ⟨-, h⟩ := nextInField_cases m s <;> rw [h]

section
variable {s : State} (hv : s.errValid = false)
include hv

/-- Every kind but CRC_MISMATCH is the error commit and nothing else. -/
theorem decides_raise {e : ErrKind} (he : e ≠ .crcMismatch) (w : Word) : Decides w s (some e) (raise e w s) := by
  rw [Decides, raise_of_clear hv, afterError, if_neg he]

/-- A check that stands before the others (R91). -/
theorem decides_check {w : Word} {t : State} {e : ErrKind} (he : e ≠ .crcMismatch) {p : Prop} [Decidable p]
    {o : Option ErrKind} (h : ¬p → Decides w s o t) :
    Decides w s (if p then some e else o) (if p then raise e w s else t) := by
  split
  · exact decides_raise hv he w
  · exact h ‹_›

/-- The check of COUNT stands before the check of the FIFO's space (R91). -/
theorem decides_countCheck {w : Word} {t : State} {e : ErrKind} (he : e ≠ .crcMismatch) {p : Prop} [Decidable p]
    {f : Unit → Option ErrKind} (h : ¬p → Decides w s (f ()) t) :
    Decides w s ((if p then some e else none).orElse f) (if p then raise e w s else t) := by
  have horElse : (if p then some e else none).orElse f = if p then some e else f () := by split <;> rfl
  rw [horElse]
  exact decides_check hv he h

/-- The check of the mode stands before the others, for a command that one mode alone admits (R89). -/
theorem decides_modeCheck {c : Cmd} {m : Mode} {t : State}
    (hc : legality c s.mode = if s.mode = m then .ok else .seq)
    (h : Decides (encodeCmd c) s (laterErrorOf c s) t) :
    Decides (encodeCmd c) s (errorOf (encodeCmd c) s)
      (if s.mode ≠ m then raise .seqError (encodeCmd c) s else t) := by
  rw [errorOf_encodeCmd, hc]
  by_cases hm : s.mode = m
  · simpa [hm] using h
  · simpa [hm] using decides_raise hv (by decide) _

/-- RX_BYTE in the CRC field: the comparison is made at the fourth byte only (R81). -/
theorem decides_rxCrcByte (hm : s.mode = .rxCrc) (b : Byte) :
    Decides (encodeCmd (.rxByte b)) s (streamError (.rxByte b) s) (rxCrcByte b s) := by
  rw [streamError, rxCrcByte]
  by_cases hidx : s.idx = 3#2
  · by_cases hcrc : shiftIn s.rxCrc b = crcFinal s.crcState
    · rw [if_pos hidx, if_pos hcrc, if_neg fun h => h.2.2 hcrc]
      exact hv
    · rw [if_pos hidx, if_neg hcrc, if_pos ⟨hm, hidx, hcrc⟩, raise_of_clear (by exact hv)]
      simp [Decides, afterError, errorState, encodeCmd]
  · rw [if_neg hidx, if_neg fun h => hidx h.2.1]
    exact hv

/-- RX_BYTE in each mode (R81): outside a chunk it is refused, and within one only the CRC field is checked. -/
theorem exec_rxByte_decides (b : Byte) :
    ∃ t, exec (.rxByte b) s = .next t ∧ Decides (encodeCmd (.rxByte b)) s (errorOf (encodeCmd (.rxByte b)) s) t := by
  rw [errorOf_encodeCmd, laterErrorOf_rxByte]
  by_cases hcrc : s.mode = .rxCrc
  · rw [hcrc]
    exact ⟨_, exec_rxByte_of_rxCrc hv hcrc b, decides_rxCrcByte hv hcrc b⟩
  rw [streamError_rxByte_of_ne hcrc]
  cases hm : s.mode with
  | idle => exact ⟨_, exec_rxByte_of_outside hv (.inl hm) b, rfl⟩
  | txData => exact ⟨_, exec_rxByte_of_outside hv (.inr hm) b, rfl⟩
  | rxLen => exact ⟨_, exec_rxByte_of_rxLen hv hm b, (nextInField_errValid ..).trans hv⟩
  | rxType => exact ⟨_, exec_rxByte_of_rxType hv hm b, (nextInField_errValid ..).trans hv⟩
  | rxData => exact ⟨_, exec_rxByte_of_rxData hv hm b, hv⟩
  | rxCrc => exact absurd hm hcrc

/-- RX_END in each mode (R82). -/
theorem exec_rxEnd_decides :
    ∃ t, exec .rxEnd s = .next t ∧ Decides (encodeCmd .rxEnd) s (errorOf (encodeCmd .rxEnd) s) t := by
  rw [errorOf_encodeCmd, laterErrorOf_rxEnd]
  cases hm : s.mode
  case idle => exact ⟨s, exec_rxEnd_of_idle hv hm, hv⟩
  case txData => exact ⟨_, exec_rxEnd_of_txData hv hm, rfl⟩
  case rxLen | rxType | rxData | rxCrc => exact ⟨_, exec_rxEnd_of_inside hv (by simp [hm]), rfl⟩

/-- A command takes the error that R91's checks answer for its word, and none if they answer none. -/
theorem exec_toInstr_decides (c : Cmd) :
    ∃ t, exec c.toInstr s = .next t ∧ Decides (encodeCmd c) s (errorOf (encodeCmd c) s) t := by
  cases c
  case rxByte b => exact exec_rxByte_decides hv b
  case rxEnd => exact exec_rxEnd_decides hv
  all_goals refine ⟨_, rfl, ?_⟩
  case nop => exact hv
  case clrErr | softReset => exact rfl
  all_goals rw [unlessPending_of_clear hv]
  case crcInit | crcByte | lenShift | typeShift | rxStart => exact decides_modeCheck hv rfl hv
  case txStart => exact decides_modeCheck hv rfl (decides_check hv (by decide) fun _ => hv)
  case txByte | txEnd =>
    exact decides_modeCheck hv rfl
      (decides_countCheck hv (by decide) fun _ => decides_check hv (by decide) fun _ => hv)

/-- A write to CMD takes the error that R91's checks answer for its word, and none if they answer none. -/
theorem exec_wrCmd_decides (w : Word) : ∃ t, exec (.wrCmd w) s = .next t ∧ Decides w s (errorOf w s) t := by
  cases hdec : decodeCmd w with
  | error e =>
    refine ⟨_, exec_wrCmd_of_error hdec s, ?_⟩
    rw [unlessPending_of_clear hv, errorOf, hdec]
    exact decides_raise hv (by decide) w
  | ok c =>
    rw [exec_wrCmd_of_ok hdec, ← encodeCmd_of_decodeCmd hdec]
    exact exec_toInstr_decides hv c

end

/-! ### Who can take an error -/

/-- An instruction is a command or one of the bus operations (R44). -/
theorem command_or_bus : (i : Instr) →
    (∃ c : Cmd, i = c.toInstr) ∨ (∃ w, i = .wrCmd w) ∨ isBusRead i = true ∨ ∃ off data, i = .wrIgnored off data
  | .nop => .inl ⟨.nop, rfl⟩
  | .crcInit => .inl ⟨.crcInit, rfl⟩
  | .crcByte b => .inl ⟨.crcByte b, rfl⟩
  | .lenShift b => .inl ⟨.lenShift b, rfl⟩
  | .typeShift b => .inl ⟨.typeShift b, rfl⟩
  | .txStart => .inl ⟨.txStart, rfl⟩
  | .txByte b => .inl ⟨.txByte b, rfl⟩
  | .txEnd => .inl ⟨.txEnd, rfl⟩
  | .rxStart => .inl ⟨.rxStart, rfl⟩
  | .rxByte b => .inl ⟨.rxByte b, rfl⟩
  | .rxEnd => .inl ⟨.rxEnd, rfl⟩
  | .clrErr => .inl ⟨.clrErr, rfl⟩
  | .softReset => .inl ⟨.softReset, rfl⟩
  | .wrCmd w => .inr (.inl ⟨w, rfl⟩)
  | .wrIgnored off data => .inr (.inr (.inr ⟨off, data, rfl⟩))
  | .rdId | .rdCmd | .rdStatus | .rdErr | .rdErrCmd | .rdLen | .rdType | .rdTypeInfo | .rdCrcState | .rdCrcResult
  | .rdCount | .rdRxCrc | .rdOut | .rdRsvd _ => .inr (.inr (.inl rfl))

/-- Only a command word takes an error: what an instruction does is what a write to CMD does, or ERR_VALID stays. -/
theorem wrCmd_or_errValid_kept {i : Instr} {s t : State} (h : exec i s = .next t) :
    (∃ w, exec (.wrCmd w) s = .next t) ∨ t.errValid = s.errValid := by
  obtain ⟨c, rfl⟩ | ⟨w, rfl⟩ | hread | ⟨off, data, rfl⟩ := command_or_bus i
  · exact .inl ⟨encodeCmd c, (exec_wrCmd_of_ok (decodeCmd_encodeCmd c) s).trans h⟩
  · exact .inl ⟨w, h⟩
  · obtain ⟨v, hv⟩ := exec_eq_observe_of_isBusRead hread s
    obtain rfl := Host.Outcome.next.inj (hv.symm.trans h)
    right
    rw [observe_errValid]
    split <;> rfl
  · obtain rfl := Host.Outcome.next.inj h
    exact .inr rfl

/-- An instruction that leaves an error pending where none was ends in the state after that error. -/
theorem eq_afterError_of_exec {i : Instr} {s t : State} (hv : s.errValid = false) (h : exec i s = .next t)
    (ht : t.errValid = true) : ∃ e w, t = afterError e w s := by
  obtain ⟨w, hw⟩ | hkept := wrCmd_or_errValid_kept h
  · obtain ⟨t', ht', hdec⟩ := exec_wrCmd_decides hv w
    obtain rfl := Host.Outcome.next.inj (ht'.symm.trans hw)
    cases herr : errorOf w s with
    | none =>
      rw [herr] at hdec
      exact absurd (ht.symm.trans hdec) nofun
    | some e =>
      rw [herr] at hdec
      exact ⟨e, w, hdec⟩
  · exact absurd (ht.symm.trans (hkept.trans hv)) nofun

end Sys2Proof.Machine
end

section
/-! SUPPORT. The obligations about errors: their priority, and what they leave unchanged. -/

namespace Sys2Proof.Proofs

open Sys2Proof.Machine

/-- Settles O25: a pending error drops the word; without one the checks of R91, in their order, decide. -/
theorem errorPriority : Obligations.ErrorPriority := by
  refine fun w s => ⟨fun hv => (pendingErrorDropsCommands s hv).1 w, fun hv => ?_⟩
  obtain ⟨t, ht, hdec⟩ := exec_wrCmd_decides hv w
  refine ⟨t, ht, ?_⟩
  cases herr : errorOf w s with
  | none => rwa [herr] at hdec
  | some e =>
    rw [herr] at hdec
    obtain rfl := hdec
    exact ⟨rfl, rfl, rfl⟩

/-- Settles O26: an error that is pending after the instruction and not before it was taken by `afterError`, and only
CRC_MISMATCH has code 7. -/
theorem errorsArePrecise : Obligations.ErrorsArePrecise := by
  intro i s t hv h ht
  obtain ⟨e, w, rfl⟩ := eq_afterError_of_exec hv h ht
  simp [afterError, errorState, e.code_eq_seven_iff, shiftIn, immField]

end Sys2Proof.Proofs
end

section
/-! SUPPORT. The decoder of both formats by its cases, the instructions by theirs, and the list of all the commands
(R46, R47, R50). -/

namespace Sys2Proof

/-! ### What a form decodes to (R47, R50) -/

theorem decode_cmd32_eq_ok_iff {w : Word} {i : Instr} :
    decode (.cmd32 w) = .ok i ↔ ∃ c, decodeCmd w = .ok c ∧ c.toInstr = i := by
  cases hdec : decodeCmd w <;> simp [decode, hdec]

theorem decode_read_eq_ok_iff {off : BitVec 6} {i : Instr} :
    decode (.read off) = .ok i ↔ decodeRead off = .ok i := by
  cases hdec : decodeRead off <;> simp [decode, hdec]

theorem decode_write_eq_ok_iff {off : BitVec 6} {data : Word} {i : Instr} :
    decode (.write off data) = .ok i ↔ decodeWrite off data = .ok i := by
  cases hdec : decodeWrite off data <;> simp [decode, hdec]

/-- A read's bus operation is encoded by the offset that was read (R50). -/
theorem encode_of_decodeRead {off : BitVec 6} {i : Instr} (h : decodeRead off = .ok i) :
    encode i = .read off ∧ i.wellFormed = true := by
  unfold decodeRead at h
  split at h
  case h_17 => cases h
  all_goals
    obtain rfl := Except.ok.inj h
    exact ⟨rfl, rfl⟩

/-- A write's bus operation is encoded by the offset and the data that were written (R50). -/
theorem encode_of_decodeWrite {off : BitVec 6} {data : Word} {i : Instr} (h : decodeWrite off data = .ok i) :
    encode i = .write off data ∧ i.wellFormed = true := by
  unfold decodeWrite at h
  split at h
  case isTrue => cases h
  case isFalse halign =>
    split at h
    case isTrue hcmd =>
      obtain rfl := Except.ok.inj h
      exact ⟨by rw [hcmd]; rfl, rfl⟩
    case isFalse hcmd =>
      obtain rfl := Except.ok.inj h
      exact ⟨rfl, by simp [Instr.wellFormed, isIgnoredOffset, not_not.1 halign, hcmd]⟩

/-! ### The form of an instruction (R46, R50) -/

@[simp] theorem encode_toInstr (c : Cmd) : encode c.toInstr = .cmd32 (encodeCmd c) := by
  cases c <;> rfl

@[simp] theorem wellFormed_toInstr (c : Cmd) : c.toInstr.wellFormed = true := by
  cases c <;> rfl

/-- A read's offset decodes to the read; only RD_RSVD has several. -/
theorem decode_encode_of_isBusRead {i : Instr} (hread : Machine.isBusRead i = true) (hwf : i.wellFormed = true) :
    decode (encode i) = .ok i := by
  cases i
  case rdRsvd off =>
    simp only [Instr.wellFormed, isReservedOffset, Bool.or_eq_true, beq_iff_eq] at hwf
    obtain (rfl | rfl) | rfl := hwf <;> rfl
  case nop | crcInit | crcByte | lenShift | typeShift | txStart | txByte | txEnd | rxStart | rxByte | rxEnd | clrErr |
      softReset | wrCmd | wrIgnored => cases hread
  all_goals rfl

/-- Decoding inverts encoding, for the commands and for each kind of bus operation. -/
theorem decode_encode {i : Instr} (hwf : i.wellFormed = true) : decode (encode i) = .ok i := by
  obtain ⟨c, rfl⟩ | ⟨w, rfl⟩ | hread | ⟨off, data, rfl⟩ := Machine.command_or_bus i
  · rw [encode_toInstr]
    exact decode_cmd32_eq_ok_iff.2 ⟨c, decodeCmd_encodeCmd c, rfl⟩
  · rfl
  · exact decode_encode_of_isBusRead hread hwf
  · simp only [Instr.wellFormed, isIgnoredOffset, Bool.and_eq_true, beq_iff_eq, bne_iff_ne] at hwf
    obtain ⟨halign, hcmd⟩ := hwf
    exact decode_write_eq_ok_iff.2 (decodeWrite_ignored ((extractLsb'_two_eq_zero_iff off).1 halign) hcmd data)

/-- Encoding inverts decoding, and what is decoded is well-formed. -/
theorem encode_of_decode {f : Form} {i : Instr} (h : decode f = .ok i) : encode i = f ∧ i.wellFormed = true := by
  cases f with
  | cmd32 w =>
    obtain ⟨c, hc, rfl⟩ := decode_cmd32_eq_ok_iff.1 h
    rw [encode_toInstr, encodeCmd_of_decodeCmd hc]
    exact ⟨rfl, wellFormed_toInstr c⟩
  | read off => exact encode_of_decodeRead (decode_read_eq_ok_iff.1 h)
  | write off data => exact encode_of_decodeWrite (decode_write_eq_ok_iff.1 h)

/-! ### All the commands (R47) -/

/-- The 256 bytes. -/
def allBytes : List Byte := (List.finRange 256).map BitVec.ofFin

theorem mem_allBytes (b : Byte) : b ∈ allBytes := List.mem_map_of_mem (List.mem_finRange b.toFin)

theorem nodup_allBytes : allBytes.Nodup :=
  (List.nodup_finRange 256).map fun _ _ h => congrArg BitVec.toFin h

/-- The eight commands without an operand. -/
def bareCmds : List Cmd := [.nop, .crcInit, .txStart, .txEnd, .rxStart, .rxEnd, .clrErr, .softReset]

/-- The five mnemonics with an operand, as functions of it. -/
def operandCmds : List (Byte → Cmd) := [.crcByte, .lenShift, .typeShift, .txByte, .rxByte]

/-- The thirteen commands with every operand. -/
def allCmds : List Cmd := bareCmds ++ operandCmds.flatMap fun f => allBytes.map f

theorem length_allCmds : allCmds.length = 1288 := by
  simp [allCmds, bareCmds, operandCmds, allBytes]

theorem mem_allCmds (c : Cmd) : c ∈ allCmds := by
  cases c <;> simp [allCmds, bareCmds, operandCmds, mem_allBytes]

theorem nodup_allCmds : allCmds.Nodup := by
  have hinj : ∀ f ∈ operandCmds, Function.Injective f := by
    simp [operandCmds, Function.Injective]
  have hdisjoint : operandCmds.Pairwise (Function.onFun List.Disjoint fun f => allBytes.map f) := by
    simp [operandCmds, Function.onFun, List.Disjoint]
  refine List.nodup_append'.2 ⟨by decide, ?_, ?_⟩
  · exact List.nodup_flatMap.2 ⟨fun f hf => nodup_allBytes.map (hinj f hf), hdisjoint⟩
  · simp [bareCmds, operandCmds, List.Disjoint]

theorem encodeCmd_injective : Function.Injective encodeCmd := fun c d h =>
  Except.ok.inj ((decodeCmd_encodeCmd c).symm.trans (h ▸ decodeCmd_encodeCmd d))

/-- The legal words are the words of the commands. -/
theorem mem_map_encodeCmd_iff (w : Word) : w ∈ allCmds.map encodeCmd ↔ ∃ c, decodeCmd w = .ok c := by
  rw [List.mem_map]
  constructor
  · rintro ⟨c, -, rfl⟩
    exact ⟨c, decodeCmd_encodeCmd c⟩
  · rintro ⟨c, hc⟩
    exact ⟨c, mem_allCmds c, encodeCmd_of_decodeCmd hc⟩

end Sys2Proof
end

section
/-! SUPPORT. The obligations about decoding and encoding: both round trips, the number of legal words, sample words. -/

namespace Sys2Proof.Proofs

open Sys2Proof.Machine

/-- Settles O1: a command by its word, a read by its offset, a write by its offset and data. -/
theorem decodeEncodeRoundTrip : Obligations.DecodeEncodeRoundTrip := fun _ => decode_encode

/-- Settles O2: the decoder's answer, in each format, is encoded by what was decoded. -/
theorem encodeDecodeRoundTrip : Obligations.EncodeDecodeRoundTrip := fun _ _ => encode_of_decode

/-- Settles O4: the words of the 8 commands without an operand and of the 5 with one of 256, each command's own. -/
theorem legalWordsNumber1288 : Obligations.LegalWordsNumber1288 :=
  ⟨allCmds.map encodeCmd, nodup_allCmds.map encodeCmd_injective, (List.length_map ..).trans length_allCmds,
    mem_map_encodeCmd_iff⟩

/-- Settles O6, by decoding the eleven words. -/
theorem sampleWordsDecode : Obligations.SampleWordsDecode := by
  unfold Obligations.SampleWordsDecode
  decide

end Sys2Proof.Proofs
end

section
/-! SUPPORT. What an instruction leaves unchanged, read off its `Effect`: the data registers (R20 to R26), a pending
error (R93), the parameters and the host's side (R5, R108). -/

namespace Sys2Proof.Machine

/-! ### What `nextInField` keeps -/

@[simp] theorem nextInField_errCode (m : Mode) (s : State) : (nextInField m s).errCode = s.errCode := by
  obtain ⟨-, h⟩ | ⟨-, h⟩ := nextInField_cases m s <;> rw [h]

@[simp] theorem nextInField_errCmd (m : Mode) (s : State) : (nextInField m s).errCmd = s.errCmd := by
  obtain ⟨-, h⟩ | ⟨-, h⟩ := nextInField_cases m s <;> rw [h]

@[simp] theorem nextInField_len (m : Mode) (s : State) : (nextInField m s).len = s.len := by
  obtain ⟨-, h⟩ | ⟨-, h⟩ := nextInField_cases m s <;> rw [h]

@[simp] theorem nextInField_type (m : Mode) (s : State) : (nextInField m s).type = s.type := by
  obtain ⟨-, h⟩ | ⟨-, h⟩ := nextInField_cases m s <;> rw [h]

@[simp] theorem nextInField_crcState (m : Mode) (s : State) : (nextInField m s).crcState = s.crcState := by
  obtain ⟨-, h⟩ | ⟨-, h⟩ := nextInField_cases m s <;> rw [h]

@[simp] theorem nextInField_count (m : Mode) (s : State) : (nextInField m s).count = s.count := by
  obtain ⟨-, h⟩ | ⟨-, h⟩ := nextInField_cases m s <;> rw [h]

@[simp] theorem nextInField_rxCrc (m : Mode) (s : State) : (nextInField m s).rxCrc = s.rxCrc := by
  obtain ⟨-, h⟩ | ⟨-, h⟩ := nextInField_cases m s <;> rw [h]

@[simp] theorem nextInField_cfg (m : Mode) (s : State) : (nextInField m s).cfg = s.cfg := by
  obtain ⟨-, h⟩ | ⟨-, h⟩ := nextInField_cases m s <;> rw [h]

@[simp] theorem nextInField_pending (m : Mode) (s : State) : (nextInField m s).pending = s.pending := by
  obtain ⟨-, h⟩ | ⟨-, h⟩ := nextInField_cases m s <;> rw [h]

@[simp] theorem nextInField_reads (m : Mode) (s : State) : (nextInField m s).reads = s.reads := by
  obtain ⟨-, h⟩ | ⟨-, h⟩ := nextInField_cases m s <;> rw [h]

/-! ### The data registers (R20 to R26) -/

section
variable {p : Instr} {s t : State}

theorem Effect.len_cases (h : Effect s p t) :
    t.len = s.len ∨
      (∃ b, p = .lenShift b) ∨ p = .rxStart ∨ (s.mode = .rxLen ∧ ∃ b, p = .rxByte b) ∨ p = .softReset := by
  cases h with
  | lenShift b => exact .inr (.inl ⟨b, rfl⟩)
  | rxStart => exact .inr (.inr (.inl rfl))
  | rxLenByte b _ hm => exact .inr (.inr (.inr (.inl ⟨hm, b, rfl⟩)))
  | reset => exact .inr (.inr (.inr (.inr rfl)))
  | rxTypeByte => exact .inl (nextInField_len ..)
  | _ => exact .inl rfl

theorem Effect.type_cases (h : Effect s p t) :
    t.type = s.type ∨
      (∃ b, p = .typeShift b) ∨ p = .rxStart ∨ (s.mode = .rxType ∧ ∃ b, p = .rxByte b) ∨ p = .softReset := by
  cases h with
  | typeShift b => exact .inr (.inl ⟨b, rfl⟩)
  | rxStart => exact .inr (.inr (.inl rfl))
  | rxTypeByte b _ hm => exact .inr (.inr (.inr (.inl ⟨hm, b, rfl⟩)))
  | reset => exact .inr (.inr (.inr (.inr rfl)))
  | rxLenByte => exact .inl (nextInField_type ..)
  | _ => exact .inl rfl

theorem Effect.crcState_cases (h : Effect s p t) :
    t.crcState = s.crcState ∨
      p = .crcInit ∨ (∃ b, p = .crcByte b) ∨ p = .txStart ∨ (∃ b, p = .txByte b) ∨ p = .rxStart ∨
        ((s.mode = .rxType ∨ s.mode = .rxData) ∧ ∃ b, p = .rxByte b) ∨ p = .softReset := by
  cases h with
  | crcInit => exact .inr (.inl rfl)
  | crcByte b => exact .inr (.inr (.inl ⟨b, rfl⟩))
  | txStart => exact .inr (.inr (.inr (.inl rfl)))
  | txByte b => exact .inr (.inr (.inr (.inr (.inl ⟨b, rfl⟩))))
  | rxStart => exact .inr (.inr (.inr (.inr (.inr (.inl rfl)))))
  | rxTypeByte b _ hm => exact .inr (.inr (.inr (.inr (.inr (.inr (.inl ⟨.inl hm, b, rfl⟩))))))
  | rxDataByte b _ hm => exact .inr (.inr (.inr (.inr (.inr (.inr (.inl ⟨.inr hm, b, rfl⟩))))))
  | reset => exact .inr (.inr (.inr (.inr (.inr (.inr (.inr rfl))))))
  | rxLenByte => exact .inl (nextInField_crcState ..)
  | _ => exact .inl rfl

theorem Effect.count_cases (h : Effect s p t) :
    t.count = s.count ∨
      p = .txStart ∨ (∃ b, p = .txByte b) ∨ p = .rxStart ∨ (s.mode = .rxData ∧ ∃ b, p = .rxByte b) ∨
        p = .softReset := by
  cases h with
  | txStart => exact .inr (.inl rfl)
  | txByte b => exact .inr (.inr (.inl ⟨b, rfl⟩))
  | rxStart => exact .inr (.inr (.inr (.inl rfl)))
  | rxDataByte b _ hm => exact .inr (.inr (.inr (.inr (.inl ⟨hm, b, rfl⟩))))
  | reset => exact .inr (.inr (.inr (.inr (.inr rfl))))
  | rxLenByte | rxTypeByte => exact .inl (nextInField_count ..)
  | _ => exact .inl rfl

theorem Effect.rxCrc_cases (h : Effect s p t) :
    t.rxCrc = s.rxCrc ∨ p = .rxStart ∨ (s.mode = .rxCrc ∧ ∃ b, p = .rxByte b) ∨ p = .softReset := by
  cases h with
  | rxStart => exact .inr (.inl rfl)
  | rxCrcByte b _ hm => exact .inr (.inr (.inl ⟨hm, b, rfl⟩))
  | rxCrcMatch b _ hm => exact .inr (.inr (.inl ⟨hm, b, rfl⟩))
  | rxCrcMismatch b _ hm => exact .inr (.inr (.inl ⟨hm, b, rfl⟩))
  | reset => exact .inr (.inr (.inr rfl))
  | rxLenByte | rxTypeByte => exact .inl (nextInField_rxCrc ..)
  | _ => exact .inl rfl

/-! ### A pending error (R93) -/

/-- With an error pending, only CLR_ERR and SOFT_RESET touch the record or MODE. -/
theorem Effect.record_cases (hv : s.errValid = true) (h : Effect s p t) :
    (t.errValid = true ∧ t.errCode = s.errCode ∧ t.errCmd = s.errCmd ∧ t.mode = s.mode) ∨
      p = .clrErr ∨ p = .softReset := by
  cases h with
  | unchanged | observed | popped => exact .inl ⟨hv, rfl, rfl, rfl⟩
  | errorCleared => exact .inr (.inl rfl)
  | reset => exact .inr (.inr rfl)
  | _ => exact absurd (hv.symm.trans ‹s.errValid = false›) nofun

/-! ### The parameters and the host's side (R5, R108) -/

theorem Effect.cfg_eq (h : Effect s p t) : t.cfg = s.cfg := by
  cases h with
  | rxLenByte | rxTypeByte => exact nextInField_cfg ..
  | _ => rfl

theorem Effect.pending_eq (h : Effect s p t) : t.pending = s.pending := by
  cases h with
  | rxLenByte | rxTypeByte => exact nextInField_pending ..
  | _ => rfl

/-- Only a bus read returns a value. -/
theorem Effect.reads_eq (hp : isBusRead p = false) (h : Effect s p t) : t.reads = s.reads := by
  cases h with
  | observed _ _ hread => rw [hp] at hread; cases hread
  | popped => cases hp
  | rxLenByte | rxTypeByte => exact nextInField_reads ..
  | _ => rfl

end

/-- A command performed through CMD is no bus read either. -/
theorem isBusRead_performed (i : Instr) : isBusRead (performed i) = isBusRead i := by
  cases i
  case wrCmd w =>
    cases hw : decodeCmd w with
    | ok c => rw [performed_wrCmd_of_ok hw, isBusRead_toInstr]; rfl
    | error e => rw [performed_wrCmd_of_error hw]
  all_goals rfl

theorem cfg_of_exec {i : Instr} {s t : State} (h : exec i s = .next t) : t.cfg = s.cfg := (effect_of_exec h).cfg_eq

theorem pending_of_exec {i : Instr} {s t : State} (h : exec i s = .next t) : t.pending = s.pending :=
  (effect_of_exec h).pending_eq

/-- A bus read returns one value (R84 to R86). -/
theorem reads_of_exec_of_isBusRead {i : Instr} {s t : State} (hi : isBusRead i = true) (h : exec i s = .next t) :
    ∃ v, t.reads = s.reads ++ [v] := by
  obtain ⟨v, hv⟩ := exec_eq_observe_of_isBusRead hi s
  obtain rfl := Host.Outcome.next.inj (hv.symm.trans h)
  refine ⟨v, ?_⟩
  rw [observe_reads]
  split <;> rfl

end Sys2Proof.Machine
end

section
/-! SUPPORT. The parts of the invariant, and that every effect keeps each of them (R32). -/

namespace Sys2Proof.Machine

/-! ### The parts of the invariant -/

/-- What R32 says of MODE, IDX, COUNT, LEN and DONE_OK. -/
structure SequencerInv (s : State) : Prop where
  idx : s.mode.countsIdx = true ∨ s.idx = 0#2
  tx : s.mode = .txData → s.count ≤ s.len
  rx : s.mode = .rxData → s.count < s.len
  done : s.doneOk = true → s.mode = .idle
  countZero : s.mode = .rxLen ∨ s.mode = .rxType → s.count = 0#32

/-- What R32 says of the error record. -/
structure RecordInv (s : State) : Prop where
  clear : s.errValid = false → s.errCode = 0#4 ∧ s.errCmd = 0#32
  pending : s.errValid = true → 1#4 ≤ s.errCode ∧ s.errCode ≤ 7#4

/-- The parameters are in R5's ranges. -/
def ConfigInv (c : Config) : Prop := 8 ≤ c.outDepth ∧ c.outDepth ≤ 255 ∧ c.base % 64 = 0

theorem blockInv_iff (s : State) :
    BlockInv s ↔ SequencerInv s ∧ RecordInv s ∧ s.outLevel ≤ s.cfg.outDepth ∧ ConfigInv s.cfg := by
  constructor
  · rintro ⟨hlegal, hcount⟩
    obtain ⟨hidx, htx, hrx, hclear, hpending, hdone, hfifo, hcfg⟩ := (legal_iff s).1 hlegal
    exact ⟨⟨hidx, htx, hrx, hdone, hcount⟩, ⟨hclear, hpending⟩, hfifo, hcfg⟩
  · rintro ⟨⟨hidx, htx, hrx, hdone, hcount⟩, ⟨hclear, hpending⟩, hfifo, hcfg⟩
    exact ⟨(legal_iff s).2 ⟨hidx, htx, hrx, hclear, hpending, hdone, hfifo, hcfg⟩, hcount⟩

/-- In IDLE nothing is asked but IDX = 0. -/
theorem SequencerInv.of_idle {s : State} (hm : s.mode = .idle) (hidx : s.idx = 0#2) : SequencerInv s :=
  ⟨.inr hidx, by simp [hm], by simp [hm], fun _ => hm, by simp [hm]⟩

theorem RecordInv.of_eq {s t : State} (h : RecordInv s) (hvalid : t.errValid = s.errValid)
    (hcode : t.errCode = s.errCode) (hcmd : t.errCmd = s.errCmd) : RecordInv t := by
  constructor
  · rw [hvalid, hcode, hcmd]; exact h.clear
  · rw [hvalid, hcode]; exact h.pending

section
variable {s : State} (h : SequencerInv s)
include h

theorem SequencerInv.idx_eq_zero (hm : s.mode.countsIdx = false) : s.idx = 0#2 :=
  h.idx.resolve_left (by simp [hm])

/-- Inside a frame DONE_OK is 0. -/
theorem SequencerInv.not_done (hm : s.mode ≠ .idle) : ¬s.doneOk = true := mt h.done hm

end

/-! ### Each effect keeps each part -/

/-- One more byte that LEN still asks for leaves COUNT within LEN (R75, R81). -/
theorem count_add_one_le_of_lt {count len : Word} (h : count < len) : count + 1#32 ≤ len := by
  have hnext : (count + 1#32).toNat = count.toNat + 1 := toNat_add_one_of_lt h
  rw [BitVec.le_def, hnext]
  exact BitVec.lt_def.1 h

/-- Bytes pushed into free space fit. -/
theorem outLevel_push_le {s : State} {bs : List Byte} (hfree : bs.length ≤ s.free) (hs : s.outLevel ≤ s.cfg.outDepth) :
    (push bs s).outLevel ≤ s.cfg.outDepth := by
  rw [outLevel_push]
  unfold State.free at hfree
  omega

section
variable {p : Instr} {s t : State}

/-- RX_BYTE in a 4-byte field: the next byte of the field, or the first of what follows it (R81). -/
theorem SequencerInv.nextInField (h : SequencerInv s) (hm : s.mode.countsIdx = true) {m : Mode}
    (hnext : SequencerInv { s with idx := 0#2, mode := m }) : SequencerInv (nextInField m s) := by
  obtain ⟨-, heq⟩ | ⟨-, heq⟩ := nextInField_cases m s <;> rw [heq]
  · exact hnext
  · exact ⟨.inl hm, h.tx, h.rx, h.done, h.countZero⟩

theorem Effect.sequencerInv (h : Effect s p t) (hs : SequencerInv s) : SequencerInv t := by
  cases h with
  | unchanged | observed | popped | errorCleared | crcInit | crcByte =>
    exact ⟨hs.idx, hs.tx, hs.rx, hs.done, hs.countZero⟩
  | reset | raised | rxCrcMatch | rxCrcMismatch => exact .of_idle rfl rfl
  | lenShift _ _ hm | typeShift _ _ hm => exact .of_idle hm (hs.idx_eq_zero (by rw [hm]; rfl))
  | txStart _ hm =>
    have hidx := hs.idx_eq_zero (by rw [hm]; rfl)
    exact ⟨.inr hidx, fun _ => BitVec.le_def.2 (Nat.zero_le _), nofun, nofun, nofun⟩
  | txByte _ _ hm hcount =>
    have hle : s.count + 1#32 ≤ s.len := count_add_one_le_of_lt (BitVec.lt_of_le_ne (hs.tx hm) hcount)
    exact ⟨hs.idx, fun _ => hle, by simp [hm], hs.done, by simp [hm]⟩
  | txEnd _ hm => exact .of_idle rfl (hs.idx_eq_zero (by rw [hm]; rfl))
  | rxStart => exact ⟨.inl rfl, nofun, nofun, nofun, fun _ => rfl⟩
  | rxLenByte b _ hm =>
    have hdone := hs.not_done (by simp [hm])
    have hcount := hs.countZero (.inl hm)
    refine SequencerInv.nextInField ?_ (by rw [hm]; rfl) ?_
    · exact ⟨hs.idx, by simp [hm], by simp [hm], hs.done, hs.countZero⟩
    · exact ⟨.inr rfl, nofun, nofun, fun h => absurd h hdone, fun _ => hcount⟩
  | rxTypeByte b _ hm =>
    have hdone := hs.not_done (by simp [hm])
    have hcount := hs.countZero (.inr hm)
    refine SequencerInv.nextInField ?_ (by rw [hm]; rfl) ?_
    · exact ⟨hs.idx, hs.tx, hs.rx, hs.done, hs.countZero⟩
    · by_cases hlen : s.len = 0#32
      · rw [if_pos hlen]
        exact ⟨.inr rfl, nofun, nofun, fun h => absurd h hdone, nofun⟩
      · rw [if_neg hlen]
        have hlt : s.count < s.len := by rw [hcount]; bv_omega
        exact ⟨.inr rfl, nofun, fun _ => hlt, fun h => absurd h hdone, nofun⟩
  | rxDataByte b _ hm =>
    have hdone := hs.not_done (by simp [hm])
    have hidx := hs.idx_eq_zero (by rw [hm]; rfl)
    by_cases hlast : s.count + 1#32 = s.len
    · rw [if_pos hlast]
      exact ⟨.inr hidx, nofun, nofun, fun h => absurd h hdone, nofun⟩
    · rw [if_neg hlast]
      have hlt : s.count + 1#32 < s.len := BitVec.lt_of_le_ne (count_add_one_le_of_lt (hs.rx hm)) hlast
      exact ⟨.inr hidx, nofun, fun _ => hlt, fun h => absurd h hdone, nofun⟩
  | rxCrcByte b _ hm => exact ⟨.inl (by rw [hm]; rfl), hs.tx, hs.rx, hs.done, hs.countZero⟩

/-- Taking an error records one of the seven codes, or leaves the code recorded before (R55, R89). -/
theorem RecordInv.raise {s : State} (hs : RecordInv s) (e : ErrKind) (w : Word) : RecordInv (raise e w s) := by
  refine ⟨nofun, fun _ => ?_⟩
  cases hv : s.errValid with
  | false => simpa [hv] using e.code_range
  | true => simpa [hv] using hs.pending hv

theorem Effect.recordInv (h : Effect s p t) (hs : RecordInv s) : RecordInv t := by
  cases h with
  | raised => exact hs.raise ..
  | rxCrcMismatch =>
    refine RecordInv.raise ?_ ..
    exact hs.of_eq rfl rfl rfl
  | errorCleared | reset => exact ⟨fun _ => ⟨rfl, rfl⟩, nofun⟩
  | rxLenByte | rxTypeByte =>
    exact hs.of_eq (nextInField_errValid ..) (nextInField_errCode ..) (nextInField_errCmd ..)
  | _ => exact hs.of_eq rfl rfl rfl

/-- An instruction pushes no more bytes than the free space it requires (R74 to R76). -/
theorem Effect.outLevel_le (h : Effect s p t) (hs : s.outLevel ≤ s.cfg.outDepth) : t.outLevel ≤ t.cfg.outDepth := by
  cases h with
  | popped => exact (Nat.le_of_eq (outLevel_dropHead s)).trans ((Nat.sub_le ..).trans hs)
  | reset => exact Nat.zero_le _
  | txStart _ _ hfree => exact outLevel_push_le hfree hs
  | txByte _ _ _ _ hfree => exact outLevel_push_le hfree hs
  | txEnd _ _ _ hfree => exact outLevel_push_le hfree hs
  | rxLenByte | rxTypeByte => simpa [State.outLevel] using hs
  | _ => exact hs

/-- Every effect keeps the invariant, part by part. -/
theorem Effect.blockInv (h : Effect s p t) (hs : BlockInv s) : BlockInv t := by
  obtain ⟨hseq, hrec, hfifo, hcfg⟩ := (blockInv_iff s).1 hs
  exact (blockInv_iff t).2 ⟨h.sequencerInv hseq, h.recordInv hrec, h.outLevel_le hfifo, h.cfg_eq ▸ hcfg⟩

/-! ### While an error is pending the block is idle (R55, R93) -/

/-- With an error pending, the block is in IDLE with IDX and DONE_OK 0. -/
def ErrorIdle (s : State) : Prop := s.errValid = true → s.mode = .idle ∧ s.idx = 0 ∧ s.doneOk = false

theorem ErrorIdle.of_clear {s : State} (h : s.errValid = false) : ErrorIdle s := fun hv => by simp [h] at hv

theorem Effect.errorIdle (h : Effect s p t) (hs : ErrorIdle s) : ErrorIdle t := by
  cases h with
  | unchanged | observed | popped => exact hs
  | errorCleared | reset => exact .of_clear rfl
  | raised | rxCrcMismatch => exact fun _ => ⟨rfl, rfl, rfl⟩
  | rxLenByte _ hv | rxTypeByte _ hv => exact .of_clear ((nextInField_errValid ..).trans hv)
  | _ => exact .of_clear ‹s.errValid = false›

end

end Sys2Proof.Machine
end

section
/-! SUPPORT. A step is the instruction of the host's next access (R8, R50, R53). -/

namespace Sys2Proof

/-- The access of a form is decoded as the form is, up to a command being written to CMD (R53). -/
theorem exists_decodeAccess_formAccess {f : Form} {i : Instr} (h : decode f = .ok i) (c : Config) :
    ∃ j, decodeAccess c (formAccess c f) = .ok j ∧ ∀ s, Machine.exec j s = Machine.exec i s := by
  cases f with
  | cmd32 w =>
    obtain ⟨cmd, hcmd, rfl⟩ := decode_cmd32_eq_ok_iff.1 h
    have hwrite := (decodeAccess_of_windowOffset_ok (windowOffset_base_add c 0x04#6) w).2
    exact ⟨.wrCmd w, hwrite, Machine.exec_wrCmd_of_ok hcmd⟩
  | read off =>
    have hread := (decodeAccess_of_windowOffset_ok (windowOffset_base_add c off) 0#32).1
    exact ⟨i, hread.trans (decode_read_eq_ok_iff.1 h), fun _ => rfl⟩
  | write off data =>
    have hwrite := (decodeAccess_of_windowOffset_ok (windowOffset_base_add c off) data).2
    exact ⟨i, hwrite.trans (decode_write_eq_ok_iff.1 h), fun _ => rfl⟩

/-- The sixteen arms of the read decoder are all the aligned offsets. -/
theorem exists_decodeRead_of_aligned {off : BitVec 6} (h : off.toNat % 4 = 0) : ∃ i, decodeRead off = .ok i := by
  have hok : ∀ o : BitVec 6, o.toNat % 4 = 0 → (decodeRead o).isOk = true := by decide
  cases hdec : decodeRead off with
  | ok i => exact ⟨i, rfl⟩
  | error e => exact absurd (hok off h) (by rw [hdec]; nofun)

theorem exists_decodeWrite_of_aligned {off : BitVec 6} (h : off.toNat % 4 = 0) (data : Word) :
    ∃ i, decodeWrite off data = .ok i := by
  by_cases hcmd : off = 0x04#6
  · rw [hcmd]
    exact ⟨_, rfl⟩
  · exact ⟨_, decodeWrite_ignored h hcmd data⟩

namespace Machine

section
variable {s : State} (hlegal : s.legal = true)
include hlegal

theorem step_of_decodeAccess_ok {a : Access} {rest : List Access} {i : Instr} (hpending : s.pending = a :: rest)
    (h : decodeAccess s.cfg a = .ok i) : step s = exec i { s with pending := rest } := by
  simp only [step, hlegal, hpending, h, if_true]

theorem step_of_pending_nil (hpending : s.pending = []) : step s = .refused .runOver := by
  simp only [step, hlegal, hpending, if_true]

/-- The step of a well-formed instruction's access is the instruction. -/
theorem step_of_accessOf {i : Instr} {rest : List Access} (hwf : i.wellFormed = true)
    (hpending : s.pending = accessOf s.cfg i :: rest) : step s = exec i { s with pending := rest } := by
  obtain ⟨j, hj, hexec⟩ := exists_decodeAccess_formAccess (decode_encode hwf) s.cfg
  rw [step_of_decodeAccess_ok hlegal hpending hj, hexec]

/-- An access that decodes to an instruction is performed. -/
theorem exists_step_of_decodeAccess {a : Access} {rest : List Access} (hpending : s.pending = a :: rest)
    (h : ∃ i, decodeAccess s.cfg a = .ok i) : ∃ t, step s = .next t ∧ t.pending = rest := by
  obtain ⟨i, hi⟩ := h
  obtain ⟨t, ht⟩ := exec_answers i { s with pending := rest }
  exact ⟨t, (step_of_decodeAccess_ok hlegal hpending hi).trans ht, pending_of_exec ht⟩

end

theorem step_of_illegal {s : State} (h : s.legal = false) : step s = .refused .illegalState := by
  simp only [step, h, Bool.false_eq_true, if_false]

/-- A step with a next state was that of a legal state, on the access it began with. -/
theorem exists_exec_of_step {s t : State} (h : step s = .next t) :
    ∃ i rest, exec i { s with pending := rest } = .next t := by
  cases hlegal : s.legal with
  | false => rw [step_of_illegal hlegal] at h; cases h
  | true =>
    cases hpending : s.pending with
    | nil => rw [step_of_pending_nil hlegal hpending] at h; cases h
    | cons a rest =>
      cases ha : decodeAccess s.cfg a with
      | error e => rw [step_of_decodeAccess_error hlegal hpending ha] at h; cases h
      | ok i => exact ⟨i, rest, (step_of_decodeAccess_ok hlegal hpending ha).symm.trans h⟩

theorem blockInv_of_step {s t : State} (hs : BlockInv s) (h : step s = .next t) : BlockInv t := by
  obtain ⟨i, rest, hexec⟩ := exists_exec_of_step h
  exact (effect_of_exec hexec).blockInv ⟨hs.legal, hs.countZero⟩

theorem errorIdle_of_step {s t : State} (hs : ErrorIdle s) (h : step s = .next t) : ErrorIdle t := by
  obtain ⟨i, rest, hexec⟩ := exists_exec_of_step h
  exact (effect_of_exec hexec).errorIdle hs

theorem blockInv_resetWith {c : Config} (hc : ConfigInv c) : BlockInv (State.resetWith c) :=
  (blockInv_iff _).2 ⟨.of_idle rfl rfl, ⟨fun _ => ⟨rfl, rfl⟩, nofun⟩, Nat.zero_le _, hc⟩

end Machine

end Sys2Proof
end

section
/-! SUPPORT. The obligations about the invariant, the writers of the registers, and single steps. -/

namespace Sys2Proof.Proofs

open Sys2Proof.Machine

/-- Settles O16: a step is an instruction, whose effect keeps each part of the invariant. -/
theorem stepKeepsInvariant : Obligations.StepKeepsInvariant := fun _ _ => blockInv_of_step

/-- Settles O17: an effect leaves no error pending, takes one and goes to IDLE, or changes none of the four fields. -/
theorem stepKeepsErrorIdle : Obligations.StepKeepsErrorIdle := fun _ _ _ => errorIdle_of_step

/-- Settles O15: the reset state is idle, without an error, with an empty FIFO. -/
theorem resetHasInvariant : Obligations.ResetHasInvariant :=
  ⟨fun _ hmin hmax hbase => blockInv_resetWith ⟨hmin, hmax, hbase⟩, rfl⟩

/-- Settles O27, by the effects that an instruction has where an error is pending. -/
theorem firstErrorIsKept : Obligations.FirstErrorIsKept := fun _ _ _ hv h => (effect_of_exec h).record_cases hv

/-- Settles O56, register by register, by the effect of the performed rule on it. -/
theorem dataRegisterWriters : Obligations.DataRegisterWriters := by
  intro i s t h p
  have heffect : Effect s p t := effect_of_exec h
  exact ⟨heffect.len_cases.resolve_left, heffect.type_cases.resolve_left, heffect.crcState_cases.resolve_left,
    heffect.count_cases.resolve_left, heffect.rxCrc_cases.resolve_left⟩

/-- Settles O58: no effect writes the parameters or the accesses to come, and the values read grow by a bus read's. -/
theorem hostSideFrame : Obligations.HostSideFrame := fun i _ _ h =>
  ⟨cfg_of_exec h, pending_of_exec h, fun hi => reads_of_exec_of_isBusRead hi h,
    fun hi => (effect_of_exec h).reads_eq ((isBusRead_performed i).trans hi)⟩

/-- Settles O8, by `step` on a legal state with a next access. -/
theorem stepPerformsNextAccess : Obligations.StepPerformsNextAccess := fun _ _ _ _ hlegal =>
  step_of_decodeAccess_ok hlegal

/-- Settles O9: the access of the instruction's form decodes to it, or to the write of its word to CMD. -/
theorem stepRunsEncodedInstruction : Obligations.StepRunsEncodedInstruction := fun _ _ _ hlegal =>
  step_of_accessOf hlegal

/-- Settles O11: the aligned offsets all decode, in both directions, and every instruction answers. -/
theorem accessInWindowIsPerformed : Obligations.AccessInWindowIsPerformed := by
  intro s off data rest hlegal hlt halign hpending
  obtain ⟨off, rfl⟩ : ∃ o : BitVec 6, off = o.toNat := ⟨BitVec.ofNat 6 off, (Nat.mod_eq_of_lt hlt).symm⟩
  obtain ⟨hread, hwrite⟩ := decodeAccess_of_windowOffset_ok (windowOffset_base_add s.cfg off) data
  obtain hpending | hpending := hpending
  · exact exists_step_of_decodeAccess hlegal hpending (hread ▸ exists_decodeRead_of_aligned halign)
  · exact exists_step_of_decodeAccess hlegal hpending (hwrite ▸ exists_decodeWrite_of_aligned halign data)

/-- Settles O12, by the two checks that `step` begins with. -/
theorem noStepOutsideARun : Obligations.NoStepOutsideARun :=
  ⟨fun _ => step_of_illegal, fun _ => step_of_pending_nil⟩

end Sys2Proof.Proofs
end

section
/-! SUPPORT. No instruction looks at BASE, at the accesses to come or at the values read before, and none but RD_STATUS
at DONE_OK (R31; R5 and U3 of 93_implementation_defined.md; log entries 2 and 3). -/

namespace Sys2Proof.Machine

/-- `s` with another DONE_OK and BASE, other accesses to come and other values read. -/
def State.varied (s : State) (d : Bool) (b : Nat) (ps : List Access) (rs : List Word) : State :=
  { s with doneOk := d, cfg := { s.cfg with base := b }, pending := ps, reads := rs }

/-- `t'` is `t` but for what `State.varied` changes, and DONE_OK is the same after if it was the same before. -/
def VariesFrom (s : State) (d : Bool) (b : Nat) (ps : List Access) (rs : List Word) (t t' : State) : Prop :=
  ∃ d', (d = s.doneOk → d' = t.doneOk) ∧ t' = t.varied d' b ps rs

section
variable {s : State} {d : Bool} {b : Nat} {ps : List Access} {rs : List Word}

/-- A state whose DONE_OK is `s`'s varies as `s` does. -/
theorem VariesFrom.of_doneOk_eq {t : State} (h : t.doneOk = s.doneOk) :
    VariesFrom s d b ps rs t (t.varied d b ps rs) := ⟨d, fun hd => hd.trans h.symm, rfl⟩

/-- A state whose DONE_OK a rule has set varies in the rest alone. -/
theorem VariesFrom.of_doneOk_set (t : State) : VariesFrom s d b ps rs t (t.varied t.doneOk b ps rs) :=
  ⟨t.doneOk, fun _ => rfl, rfl⟩

/-- A check of a rule sees the same in both states. -/
theorem VariesFrom.ite {c : Prop} [Decidable c] {t t' u u' : State} (ht : VariesFrom s d b ps rs t t')
    (hu : VariesFrom s d b ps rs u u') :
    VariesFrom s d b ps rs (if c then t else u) (if c then t' else u') := by
  split
  · exact ht
  · exact hu

/-- The check for a pending error sees the same in both states. -/
theorem VariesFrom.unlessPending {t t' : State} (ht : VariesFrom s d b ps rs t t') :
    VariesFrom s d b ps rs (unlessPending s t) (unlessPending (s.varied d b ps rs) t') :=
  .ite (.of_doneOk_eq rfl) ht

theorem variesFrom_raise {u : State} (e : ErrKind) (w : Word) (x : Bool) :
    VariesFrom s d b ps rs (raise e w u) (raise e w (u.varied x b ps rs)) := .of_doneOk_set (raise e w u)

/-- RX_BYTE, mode by mode (R81). -/
theorem exec_rxByte_varied (x : Byte) :
    ∃ t t', exec (.rxByte x) s = .next t ∧ exec (.rxByte x) (s.varied d b ps rs) = .next t' ∧
      VariesFrom s d b ps rs t t' := by
  refine ⟨_, _, rfl, rfl, .unlessPending ?_⟩
  have hmode : (s.varied d b ps rs).mode = s.mode := rfl
  rw [hmode]
  cases s.mode with
  | idle | txData => exact variesFrom_raise _ _ _
  | rxLen => exact .ite (.of_doneOk_eq rfl) (.of_doneOk_eq rfl)
  | rxType => exact .ite (.of_doneOk_eq rfl) (.of_doneOk_eq rfl)
  | rxData => exact .of_doneOk_eq rfl
  | rxCrc => exact .ite (.ite (.of_doneOk_set _) (variesFrom_raise _ _ _)) (.of_doneOk_eq rfl)

/-- RX_END, mode by mode (R82). -/
theorem exec_rxEnd_varied :
    ∃ t t', exec .rxEnd s = .next t ∧ exec .rxEnd (s.varied d b ps rs) = .next t' ∧ VariesFrom s d b ps rs t t' := by
  refine ⟨_, _, rfl, rfl, .unlessPending ?_⟩
  have hmode : (s.varied d b ps rs).mode = s.mode := rfl
  rw [hmode]
  cases s.mode with
  | idle => exact .of_doneOk_eq rfl
  | _ => exact variesFrom_raise _ _ _

/-- No command looks at what `State.varied` changes. -/
theorem exec_toInstr_varied (c : Cmd) :
    ∃ t t', exec c.toInstr s = .next t ∧ exec c.toInstr (s.varied d b ps rs) = .next t' ∧
      VariesFrom s d b ps rs t t' := by
  cases c
  case rxByte x => exact exec_rxByte_varied x
  case rxEnd => exact exec_rxEnd_varied
  all_goals refine ⟨_, _, rfl, rfl, ?_⟩
  case nop | clrErr => exact .of_doneOk_eq rfl
  case softReset => exact .of_doneOk_set _
  all_goals refine .unlessPending (.ite (variesFrom_raise _ _ _) ?_)
  case crcInit | crcByte | lenShift | typeShift => exact .of_doneOk_eq rfl
  case rxStart => exact .of_doneOk_set _
  case txStart => exact .ite (variesFrom_raise _ _ _) (.of_doneOk_set _)
  case txByte => exact .ite (variesFrom_raise _ _ _) (.ite (variesFrom_raise _ _ _) (.of_doneOk_eq rfl))
  case txEnd => exact .ite (variesFrom_raise _ _ _) (.ite (variesFrom_raise _ _ _) (.of_doneOk_set _))

/-- A write to CMD looks at none of it either. -/
theorem exec_wrCmd_varied (w : Word) :
    ∃ t t', exec (.wrCmd w) s = .next t ∧ exec (.wrCmd w) (s.varied d b ps rs) = .next t' ∧
      VariesFrom s d b ps rs t t' := by
  cases hdec : decodeCmd w with
  | ok c =>
    rw [exec_wrCmd_of_ok hdec, exec_wrCmd_of_ok hdec]
    exact exec_toInstr_varied c
  | error e =>
    rw [exec_wrCmd_of_error hdec, exec_wrCmd_of_error hdec]
    exact ⟨_, _, rfl, rfl, .unlessPending (variesFrom_raise _ _ _)⟩

/-- A bus read returns the same value, RD_STATUS if DONE_OK is the same. -/
theorem exec_varied_of_isBusRead {i : Instr} (hread : isBusRead i = true) (hi : i = .rdStatus → d = s.doneOk) :
    ∃ v u, exec i s = .next (observe v u) ∧ exec i (s.varied d b ps rs) = .next (observe v (u.varied d b ps rs)) ∧
      u.doneOk = s.doneOk ∧ u.reads = s.reads := by
  cases i
  case nop | crcInit | crcByte | lenShift | typeShift | txStart | txByte | txEnd | rxStart | rxByte | rxEnd | clrErr |
      softReset | wrCmd | wrIgnored => cases hread
  case rdStatus =>
    obtain rfl := hi rfl
    exact ⟨_, _, rfl, rfl, rfl, rfl⟩
  all_goals exact ⟨_, _, rfl, rfl, rfl, rfl⟩

/-- No instruction but a bus read looks at what `State.varied` changes. -/
theorem exec_varied_of_not_isBusRead {i : Instr} (hread : isBusRead i = false) :
    ∃ t t', exec i s = .next t ∧ exec i (s.varied d b ps rs) = .next t' ∧ VariesFrom s d b ps rs t t' := by
  obtain ⟨c, rfl⟩ | ⟨w, rfl⟩ | hread' | ⟨off, data, rfl⟩ := command_or_bus i
  · exact exec_toInstr_varied c
  · exact exec_wrCmd_varied w
  · rw [hread] at hread'
    cases hread'
  · exact ⟨_, _, rfl, rfl, .of_doneOk_eq rfl⟩

/-- What an instruction does to a state that varies from `s` in DONE_OK, BASE and the accesses to come. -/
theorem exec_varied {i : Instr} {t : State} (hi : i = .rdStatus → d = s.doneOk) (h : exec i s = .next t) :
    ∃ t', exec i (s.varied d b ps s.reads) = .next t' ∧ VariesFrom s d b ps t.reads t t' := by
  cases hread : isBusRead i with
  | false =>
    obtain ⟨u, u', hu, hu', hvaries⟩ := exec_varied_of_not_isBusRead (s := s) (rs := s.reads) hread
    obtain rfl := Host.Outcome.next.inj (hu.symm.trans h)
    have hreads : u.reads = s.reads := (effect_of_exec h).reads_eq ((isBusRead_performed i).trans hread)
    exact ⟨u', hu', hreads ▸ hvaries⟩
  | true =>
    obtain ⟨v, u, hu, hu', hdone, hreads⟩ := exec_varied_of_isBusRead hread hi
    obtain rfl := Host.Outcome.next.inj (hu.symm.trans h)
    refine ⟨_, hu', d, fun hd => hd.trans hdone.symm, ?_⟩
    simp [State.varied, observe, hreads]

end

/-- Another BASE and other accesses to come are still so after an instruction, and nothing else differs. -/
theorem exec_withHost {i : Instr} {s t : State} (h : exec i s = .next t) (b : Nat) (ps : List Access) :
    exec i { s with cfg := { s.cfg with base := b }, pending := ps } =
      .next { t with cfg := { t.cfg with base := b }, pending := ps } := by
  obtain ⟨t', ht', d', hd', rfl⟩ := exec_varied (d := s.doneOk) (b := b) (ps := ps) (fun _ => rfl) h
  rw [hd' rfl] at ht'
  exact ht'

theorem exec_withPending {i : Instr} {s t : State} (h : exec i s = .next t) (ps : List Access) :
    exec i { s with pending := ps } = .next { t with pending := ps } :=
  (exec_withHost h s.cfg.base ps).trans (by rw [← cfg_of_exec h])

theorem exec_withBase {i : Instr} {s t : State} (h : exec i s = .next t) (b : Nat) :
    exec i { s with cfg := { s.cfg with base := b } } = .next { t with cfg := { t.cfg with base := b } } :=
  (exec_withHost h b s.pending).trans (by rw [← pending_of_exec h])

/-- Another DONE_OK makes no other difference, but for the value of RD_STATUS. -/
theorem exec_withDoneOk {i : Instr} {s t : State} (hi : i ≠ .rdStatus) (h : exec i s = .next t) (d : Bool) :
    ∃ d', exec i { s with doneOk := d } = .next { t with doneOk := d' } := by
  obtain ⟨t', ht', d', -, rfl⟩ := exec_varied (d := d) (b := s.cfg.base) (ps := s.pending) (fun h => absurd h hi) h
  refine ⟨d', ht'.trans ?_⟩
  rw [State.varied, ← cfg_of_exec h, ← pending_of_exec h]

/-! ### The host's sequence (R108) -/

theorem run_succ_of_step {s t : State} (h : step s = .next t) (k : Nat) : core.run (k + 1) s = core.run k t := by
  simp only [Host.Core.run, core, h]

/-- The machine performs the accesses of well-formed instructions as those instructions in order: each step keeps the
invariant and the parameters, and the accesses behind it do not matter to it. -/
theorem run_eq_runAll {is : List Instr} {s : State} {rest : List Access} (hs : BlockInv s)
    (hwf : ∀ i ∈ is, i.wellFormed = true) (hpending : s.pending = is.map (accessOf s.cfg) ++ rest) :
    core.run is.length s = runAll is { s with pending := rest } := by
  induction is generalizing s with
  | nil =>
    obtain rfl : s.pending = rest := hpending
    rfl
  | cons i is ih =>
    obtain ⟨hi, his⟩ := List.forall_mem_cons.1 hwf
    obtain ⟨t, ht⟩ := exec_answers i { s with pending := rest }
    have hstep : step s = .next { t with pending := is.map (accessOf s.cfg) ++ rest } :=
      (step_of_accessOf hs.legal hi hpending).trans (exec_withPending ht _)
    have hcfg : t.cfg = s.cfg := (effect_of_exec ht).cfg_eq
    have hrest : t.pending = rest := (effect_of_exec ht).pending_eq
    have hrun : core.run is.length { t with pending := is.map (accessOf s.cfg) ++ rest } =
        runAll is { t with pending := rest } := ih (blockInv_of_step hs hstep) his (by rw [hcfg])
    rw [runAll_cons ht]
    exact ((run_succ_of_step hstep _).trans hrun).trans (by rw [← hrest])

end Sys2Proof.Machine
end

section
/-! SUPPORT. The obligations about whole runs and about what decides no effect. -/

namespace Sys2Proof.Proofs

open Sys2Proof.Machine

/-- Settles O13, by induction on the instructions: a step performs the first, on a state with the invariant again. -/
theorem runPerformsHostSequence : Obligations.RunPerformsHostSequence := fun _ _ _ => run_eq_runAll

/-- Settles O59: every rule's checks and values leave DONE_OK and BASE out, RD_STATUS's value apart. -/
theorem doneOkAndBaseDecideNothing : Obligations.DoneOkAndBaseDecideNothing := by
  refine ⟨fun i s t d hi h => ?_, fun i s t b h => exec_withBase h b⟩
  obtain ⟨d', ht'⟩ := exec_withDoneOk hi h d
  exact ⟨_, ht', rfl⟩

end Sys2Proof.Proofs
end

section
/-! SUPPORT. The cells of the mode legality matrix (R89), the loads of LEN and TYPE (R52), the fields of ERR (R18), and
a chunk with one byte changed (R72). -/

namespace Sys2Proof.Machine

/-! ### The mode legality matrix (R89) -/

theorem legality_eq_eof_iff (c : Cmd) (m : Mode) :
    legality c m = .eof ↔ c = .rxEnd ∧ (m = .rxLen ∨ m = .rxType ∨ m = .rxData ∨ m = .rxCrc) := by
  cases c
  case rxEnd => cases m <;> decide
  all_goals simp only [legality, reduceCtorEq, false_and, iff_false] <;> split <;> nofun

theorem legality_eq_nop_iff (c : Cmd) (m : Mode) : legality c m = .nop ↔ c = .rxEnd ∧ m = .idle := by
  cases c
  case rxEnd => cases m <;> decide
  all_goals simp only [legality, reduceCtorEq, false_and, iff_false] <;> split <;> nofun

theorem countError_ne_seqError (c : Cmd) (s : State) : countError c s ≠ some .seqError := by
  cases c
  case txByte | txEnd => simp only [countError]; split <;> nofun
  all_goals nofun

theorem streamError_ne_seqError (c : Cmd) (s : State) : streamError c s ≠ some .seqError := by
  cases c
  case rxByte | rxEnd => simp only [streamError]; split <;> nofun
  all_goals nofun

/-- Only the check of the mode answers SEQ_ERROR (R91). -/
theorem laterErrorOf_ne_seqError (c : Cmd) (s : State) : laterErrorOf c s ≠ some .seqError := by
  unfold laterErrorOf
  cases hcount : countError c s with
  | some e =>
    rw [Option.orElse_some, ← hcount]
    exact countError_ne_seqError c s
  | none =>
    rw [Option.orElse_none]
    split
    · nofun
    · exact streamError_ne_seqError c s

theorem ErrKind.code_eq_two_iff (e : ErrKind) : e.code = 2#4 ↔ e = .seqError := by
  cases e <;> decide

section
variable {s : State} (hv : s.errValid = false)
include hv

/-- A command in a SEQ cell. -/
theorem exec_toInstr_of_seq {c : Cmd} (hc : legality c s.mode = .seq) :
    exec c.toInstr s = .next (errorState 2#4 (encodeCmd c) s) := by
  obtain ⟨t, ht, hdec⟩ := exec_toInstr_decides hv c
  rw [errorOf_encodeCmd, if_pos hc] at hdec
  obtain rfl := hdec
  exact ht

/-- A command in no SEQ cell takes no SEQ_ERROR. -/
theorem exec_toInstr_of_ne_seq {c : Cmd} (hc : legality c s.mode ≠ .seq) :
    ∃ t, exec c.toInstr s = .next t ∧ (t.errValid = true → t.errCode ≠ 2#4) := by
  obtain ⟨t, ht, hdec⟩ := exec_toInstr_decides hv c
  rw [errorOf_encodeCmd, if_neg hc] at hdec
  refine ⟨t, ht, fun htv hcode => ?_⟩
  cases herr : laterErrorOf c s with
  | none =>
    rw [herr] at hdec
    exact absurd (htv.symm.trans hdec) nofun
  | some e =>
    rw [herr] at hdec
    obtain rfl := hdec
    obtain rfl := e.code_eq_two_iff.1 hcode
    exact laterErrorOf_ne_seqError c s herr

/-! ### The loads (R52) -/

section
variable (hm : s.mode = .idle)
include hm

theorem runAll_lenShifts (bytes : List Byte) :
    runAll (bytes.map .lenShift) s = .next { s with len := bytes.foldl shiftIn s.len } := by
  induction bytes generalizing s with
  | nil => rfl
  | cons b bytes ih => exact (runAll_cons (exec_lenShift_of_idle hv hm b) _).trans (ih hv hm)

theorem runAll_typeShifts (bytes : List Byte) :
    runAll (bytes.map .typeShift) s = .next { s with type := bytes.foldl shiftIn s.type } := by
  induction bytes generalizing s with
  | nil => rfl
  | cons b bytes ih => exact (runAll_cons (exec_typeShift_of_idle hv hm b) _).trans (ih hv hm)

theorem runAll_len32 (n : Word) : runAll (len32 n) s = .next { s with len := n } := by
  rw [len32, runAll_lenShifts hv hm, foldl_shiftIn_be32]

theorem runAll_type4 (t : Word) : runAll (type4 t) s = .next { s with type := t } := by
  rw [type4, runAll_typeShifts hv hm, foldl_shiftIn_be32]

end

end

/-! ### ERR bit by bit (R18) -/

theorem getLsbD_errWord (s : State) {j : Nat} (hj : j < 32) :
    (errWord s).getLsbD j = (s.errValid && decide (j = 31) || s.errCode.getLsbD j) := by
  simp [errWord, getElem_flagAt, hj]

theorem errWord_errCode (s : State) : (errWord s).extractLsb' 0 4 = s.errCode := by
  apply BitVec.eq_of_getLsbD_eq
  intro j hj
  have hne : j ≠ 31 := by omega
  rw [BitVec.getLsbD_extractLsb', Nat.zero_add, getLsbD_errWord s (by omega)]
  simp [hj, hne]

theorem errWord_reserved (s : State) : (errWord s).extractLsb' 4 27 = 0 := by
  apply BitVec.eq_of_getLsbD_eq
  intro j hj
  have hne : 4 + j ≠ 31 := by omega
  rw [BitVec.getLsbD_extractLsb', getLsbD_errWord s (by omega), BitVec.getLsbD_of_ge s.errCode (4 + j) (by omega)]
  simp [hne]

/-! ### One byte changed (R68 (f), R72) -/

/-- Changing one byte changes the CRC. -/
theorem crc32_set_ne {p : List Byte} {j : Nat} {b : Byte} (hne : p.set j b ≠ p) : crc32 (p.set j b) ≠ crc32 p := by
  intro h
  by_cases hj : j < p.length
  · have hsplit : p = p.take j ++ p[j] :: p.drop (j + 1) := by simp
    have hchanged : p.set j b = p.take j ++ b :: p.drop (j + 1) := by rw [List.set_eq_take_append_cons_drop, if_pos hj]
    have hcrc : crc32 (p.take j ++ b :: p.drop (j + 1)) = crc32 (p.take j ++ p[j] :: p.drop (j + 1)) := by
      rw [← hchanged, h, ← hsplit]
    have hb : b = p[j] := crc32_changed_byte_inj hcrc
    exact hne (by rw [hb, List.set_getElem_self])
  · exact hne (List.set_eq_of_length_le (Nat.le_of_not_lt hj))

/-- A changed byte leaves a field of four bytes and what follows it as long as they were. -/
theorem exists_be32_append_set (t : Word) (d : List Byte) (k : Nat) (b : Byte) :
    ∃ t' d', (be32 t ++ d).set k b = be32 t' ++ d' ∧ d'.length = d.length := by
  have hlen : ((be32 t ++ d).set k b).length = 4 + d.length := by
    rw [List.length_set, List.length_append, be32_length]
  obtain ⟨t', d', hset⟩ := exists_be32_append (p := (be32 t ++ d).set k b) (by omega)
  rw [hset, List.length_append, be32_length] at hlen
  exact ⟨t', d', hset, by omega⟩

theorem exists_be32_set (c : Word) (k : Nat) (b : Byte) : ∃ c', (be32 c).set k b = be32 c' := by
  obtain ⟨c', q, hset, hq⟩ := exists_be32_append_set c [] k b
  rw [List.append_nil, List.eq_nil_of_length_eq_zero hq, List.append_nil] at hset
  exact ⟨c', hset⟩

/-- A chunk with its CRC, one of whose type, data and CRC bytes is changed, is a chunk of the same length with a wrong
CRC: changing the type or the data changes the CRC of them, and the CRC field has the old one. -/
theorem exists_chunkBytes_set {n t c : Word} {d : List Byte} (hc : c = crc32 (be32 t ++ d)) {j : Nat} {b : Byte}
    (hj : 4 ≤ j) (hne : (chunkBytes n t d c).set j b ≠ chunkBytes n t d c) :
    ∃ t' d' c', (chunkBytes n t d c).set j b = chunkBytes n t' d' c' ∧ d'.length = d.length ∧
      c' ≠ crc32 (be32 t' ++ d') := by
  obtain ⟨k, rfl⟩ := Nat.exists_eq_add_of_le hj
  have hbytes (t : Word) (d : List Byte) (c : Word) : chunkBytes n t d c = be32 n ++ ((be32 t ++ d) ++ be32 c) := by
    rw [chunkBytes, List.append_assoc]
  have hset : (chunkBytes n t d c).set (4 + k) b = be32 n ++ ((be32 t ++ d) ++ be32 c).set k b := by
    rw [hbytes, List.set_append_right _ _ hj, be32_length, Nat.add_sub_cancel_left]
  rw [hset] at hne ⊢
  by_cases hk : k < (be32 t ++ d).length
  · rw [List.set_append_left _ _ hk] at hne ⊢
    have hbody : (be32 t ++ d).set k b ≠ be32 t ++ d := fun h => hne (by rw [h, hbytes])
    obtain ⟨t', d', hp, hlen⟩ := exists_be32_append_set t d k b
    refine ⟨t', d', c, by rw [hp, hbytes], hlen, ?_⟩
    rw [hc, ← hp]
    exact (crc32_set_ne hbody).symm
  · rw [List.set_append_right _ _ (Nat.le_of_not_lt hk)] at hne ⊢
    obtain ⟨c', hc'⟩ := exists_be32_set c (k - (be32 t ++ d).length) b
    rw [hc'] at hne ⊢
    exact ⟨t, d, c', (hbytes ..).symm, rfl, fun h => hne (by rw [h, ← hc, hbytes])⟩

end Sys2Proof.Machine
end

section
/-! SUPPORT. The obligations about the legality matrix, the loads, the fields of ERR, and the parse and the check of a
chunk. -/

namespace Sys2Proof.Proofs

open Sys2Proof.Machine

/-- Settles O24: the SEQ cells by the first check behind the decoder, the EOF and nop cells as those of RX_END, and the
rest by the checks that follow, none of which answers SEQ_ERROR. -/
theorem modeLegalityMatrix : Obligations.ModeLegalityMatrix := by
  intro c s hv
  refine ⟨exec_toInstr_of_seq hv, fun heof => ?_, fun hnop => ?_, fun hok => ?_⟩
  · obtain ⟨rfl, hm⟩ := (legality_eq_eof_iff c s.mode).1 heof
    exact exec_rxEnd_of_inside hv hm
  · obtain ⟨rfl, hm⟩ := (legality_eq_nop_iff c s.mode).1 hnop
    exact exec_rxEnd_of_idle hv hm
  · exact exec_toInstr_of_ne_seq hv (by rw [hok]; nofun)

/-- Settles O32: four bytes shifted in replace the register. -/
theorem loadsReplaceWholeField : Obligations.LoadsReplaceWholeField := fun v _ hm hv =>
  ⟨runAll_len32 hv hm v, runAll_type4 hv hm v⟩

/-- Settles O50: ERR read bit by bit. -/
theorem errFields : Obligations.ErrFields := by
  refine fun s => ⟨?_, errWord_errCode s, errWord_reserved s⟩
  rw [getLsbD_errWord s (by decide)]
  simp

/-- Settles O44: a serialized chunk is a chunk's bytes, with its CRC. -/
theorem parseOfSerialization : Obligations.ParseOfSerialization := by
  intro t d rest hd
  rw [chunkSerialize_eq, chunkParse_chunkBytes _ t _ rest (Nat.mod_eq_of_lt hd).symm, if_pos rfl]

/-- Settles O46: the changed sequence is a chunk of the same length with a wrong CRC, which decides CHECK. -/
theorem checkerCatchesChangedByte : Obligations.CheckerCatchesChangedByte := by
  intro t d j b s hm hv hd hmin hmax hne
  have hchanged : (chunkSerialize t d).set j b ≠ chunkSerialize t d := fun h => hne (by
    rw [← h, List.getElem?_set_self]
    rwa [chunkSerialize_eq, chunkBytes_length])
  rw [chunkSerialize_eq] at hchanged ⊢
  obtain ⟨t', d', c', hset, hlen, hcrc⟩ := exists_chunkBytes_set rfl hmin hchanged
  have hd' : d'.length = (BitVec.ofNat 32 d.length).toNat := hlen.trans (Nat.mod_eq_of_lt hd).symm
  rw [hset, runAll_check_chunkBytes hv hm _ t' c' hd', if_neg hcrc]
  exact ⟨_, rfl, rfl, rfl⟩

end Sys2Proof.Proofs
end

section
/-! SUPPORT. STATUS as the host polls it, in every state: the fields below bit 8 do not depend on OUT_DEPTH and
OUT_LEVEL (R15). -/

namespace Sys2Proof.Machine

/-- The low byte of STATUS. -/
theorem getLsbD_statusWord_low (s : State) {j : Nat} (hj : j < 8) :
    (statusWord s).getLsbD j =
      (s.doneOk && decide (j = 7) || s.errValid && decide (j = 6) || !decide (j < 4) && s.idx.getLsbD (j - 4) ||
        s.mode.code.getLsbD j) := by
  have hj16 : j < 16 := by omega
  have hj32 : j < 32 := by omega
  simp [statusWord, getElem_flagAt, hj, hj16, hj32]

theorem statusWord_errValid (s : State) : (statusWord s).getLsbD 6 = s.errValid := by
  rw [getLsbD_statusWord_low s (by decide)]
  simp

theorem statusWord_doneOk (s : State) : (statusWord s).getLsbD 7 = s.doneOk := by
  rw [getLsbD_statusWord_low s (by decide)]
  simp

theorem statusWord_modeCode (s : State) : (statusWord s).extractLsb' 0 3 = s.mode.code := by
  apply BitVec.eq_of_getLsbD_eq
  intro j hj
  have h4 : j < 4 := by omega
  have h6 : j ≠ 6 := by omega
  have h7 : j ≠ 7 := by omega
  rw [BitVec.getLsbD_extractLsb', Nat.zero_add, getLsbD_statusWord_low s (by omega)]
  simp [hj, h4, h6, h7]

/-- MODE reads as 0 in IDLE alone (R16). -/
theorem Mode.code_eq_zero_iff (m : Mode) : m.code = 0#3 ↔ m = .idle := by
  cases m <;> decide

theorem frameAccepted_statusWord (s : State) : frameAccepted (statusWord s) = (s.doneOk && !s.errValid) := by
  rw [frameAccepted, statusWord_doneOk, statusWord_errValid]

end Sys2Proof.Machine
end

section
/-! SUPPORT. The host that serializes an image (R100): the FIFO is empty between the commands of a frame, so each finds
the space it requires, and what the host has popped is the chunk. -/

namespace Sys2Proof.Machine

/-! ### Every byte popped as it is pushed (R102) -/

@[simp] theorem performed_toInstr (c : Cmd) : performed c.toInstr = c.toInstr := by
  cases c <;> rfl

/-- An instruction pushes no more bytes than the space it requires (R74 to R76). -/
theorem Effect.length_fifo_le {p : Instr} {s t : State} (h : Effect s p t) :
    t.fifo.length ≤ s.fifo.length + spaceNeeded p := by
  cases h with
  | popped => exact (Nat.le_of_eq List.length_tail).trans ((Nat.sub_le ..).trans (Nat.le_add_right ..))
  | reset => exact Nat.zero_le _
  | txStart | txByte | txEnd => exact Nat.le_of_eq List.length_append
  | rxLenByte | rxTypeByte => rw [nextInField_fifo]; exact Nat.le_add_right ..
  | _ => exact Nat.le_add_right ..

theorem spaceNeeded_toInstr_le (c : Cmd) : spaceNeeded c.toInstr ≤ 8 := by
  cases c <;> simp [Cmd.toInstr, spaceNeeded]

theorem spaceSuffices_drain (k : Nat) (s : State) : spaceSuffices (drain k) s = true := by
  induction k generalizing s with
  | zero => rfl
  | succ k ih => exact (spaceSuffices_cons rfl _).2 ⟨Nat.zero_le _, ih _⟩

/-- The instructions, each followed by as many reads of OUT as it can push bytes. -/
def drained (is : List Instr) : List Instr := is.flatMap fun i => i :: drain (spaceNeeded i)

theorem drained_cons (i : Instr) (is : List Instr) :
    drained (i :: is) = (i :: drain (spaceNeeded i)) ++ drained is := List.flatMap_cons ..

/-- R102's first discipline is a frame whose instructions are drained one by one. -/
theorem frameDrained_eq (t : Word) (d : List Byte) : frameDrained t d = drained (frame t d) := by
  simp [frameDrained, drained, frame, len32, type4, txBytes, be32, spaceNeeded, drain, List.flatMap_map,
    List.replicate_succ]

/-- The ten commands that R54 drops. -/
def IsDroppable (i : Instr) : Prop := ∃ c ∉ ([.nop, .clrErr, .softReset] : List Cmd), i = c.toInstr

theorem isDroppable_of_mem_frame {t : Word} {d : List Byte} : ∀ i ∈ frame t d, IsDroppable i := by
  intro i hi
  simp only [frame, len32, type4, txBytes, List.mem_append, List.mem_map, List.mem_singleton] at hi
  obtain (((⟨b, -, rfl⟩ | ⟨b, -, rfl⟩) | rfl) | ⟨b, -, rfl⟩) | rfl := hi
  exacts [⟨.lenShift b, by simp, rfl⟩, ⟨.typeShift b, by simp, rfl⟩, ⟨.txStart, by simp, rfl⟩,
    ⟨.txByte b, by simp, rfl⟩, ⟨.txEnd, by simp, rfl⟩]

theorem IsDroppable.ne_rdOut {i : Instr} (h : IsDroppable i) : i ≠ .rdOut := by
  obtain ⟨c, -, rfl⟩ := h
  intro heq
  exact absurd (isBusRead_toInstr c) (by rw [heq]; decide)

/-- Without its reads of OUT, the drained sequence is the sequence. -/
theorem filter_drained {is : List Instr} (h : ∀ i ∈ is, IsDroppable i) :
    (drained is).filter (fun i => i != .rdOut) = is := by
  induction is with
  | nil => rfl
  | cons i is ih =>
    obtain ⟨hi, his⟩ := List.forall_mem_cons.1 h
    have hdrain (k : Nat) : (drain k).filter (fun i => i != .rdOut) = [] := by simp [drain]
    rw [drained_cons, List.filter_append, ih his, List.filter_cons_of_pos (by simpa using hi.ne_rdOut), hdrain]
    rfl

/-- The FIFO is empty, and deep enough for the header. -/
def Roomy (s : State) : Prop := s.fifo = [] ∧ 8 ≤ s.cfg.outDepth

/-- A drained command finds the space it requires and leaves the FIFO as empty as it was. -/
theorem exists_runAll_drained_toInstr {s : State} (hs : Roomy s) (c : Cmd) :
    ∃ t, runAll (c.toInstr :: drain (spaceNeeded c.toInstr)) s = .next t ∧ Roomy t ∧
      spaceSuffices (c.toInstr :: drain (spaceNeeded c.toInstr)) s = true := by
  obtain ⟨hfifo, hdepth⟩ := hs
  obtain ⟨u, hu⟩ := exec_answers c.toInstr s
  have hpushed : u.fifo.length ≤ spaceNeeded c.toInstr := by
    simpa [hfifo] using (effect_of_exec hu).length_fifo_le
  have hfree : spaceNeeded c.toInstr ≤ s.free := by
    simpa [State.free, State.outLevel, hfifo] using (spaceNeeded_toInstr_le c).trans hdepth
  refine ⟨_, (runAll_cons hu _).trans (Proofs.drainReturnsPushOrder _ u), ⟨List.drop_eq_nil_of_le hpushed, ?_⟩,
    (spaceSuffices_cons hu _).2 ⟨hfree, spaceSuffices_drain ..⟩⟩
  rw [← cfg_of_exec hu] at hdepth
  exact hdepth

theorem exists_runAll_drained {is : List Instr} (h : ∀ i ∈ is, IsDroppable i) {s : State} (hs : Roomy s) :
    ∃ t, runAll (drained is) s = .next t ∧ Roomy t ∧ spaceSuffices (drained is) s = true := by
  induction is generalizing s with
  | nil => exact ⟨s, rfl, hs, rfl⟩
  | cons i is ih =>
    obtain ⟨⟨c, -, rfl⟩, his⟩ := List.forall_mem_cons.1 h
    obtain ⟨u, hu, hroomy, hspace⟩ := exists_runAll_drained_toInstr hs c
    obtain ⟨t, ht, htroomy, hrest⟩ := ih his hroomy
    rw [drained_cons, runAll_append hu, spaceSuffices_append hu]
    exact ⟨t, ht, htroomy, hspace, hrest⟩

/-! ### One frame after another (R100) -/

/-- The block is ready for a frame: in IDLE, without a pending error, with an empty FIFO. -/
structure FrameReady (s : State) : Prop where
  mode : s.mode = .idle
  clear : s.errValid = false
  roomy : Roomy s

/-- A drained frame gives the host the chunk, and the block is ready for the next one. -/
theorem exists_runAll_frameDrained {s : State} (hs : FrameReady s) (t : Word) {d : List Byte} (hd : d.length < 2 ^ 32) :
    ∃ e vs, runAll (frameDrained t d) s = .next e ∧ FrameReady e ∧ e.doneOk = true ∧ e.reads = s.reads ++ vs ∧
      outBytes vs = chunkSerialize t d := by
  have hcmds : ∀ i ∈ frame t d, IsDroppable i := isDroppable_of_mem_frame
  obtain ⟨u, hu, hroomy, hspace⟩ := exists_runAll_drained hcmds hs.roomy
  rw [← frameDrained_eq] at hu hspace
  have hfilter : (frameDrained t d).filter (fun i => i != .rdOut) = frame t d := by
    rw [frameDrained_eq, filter_drained hcmds]
  obtain ⟨e, vs, he, hv, hm, hdone, -, -, hreads, hpopped⟩ :=
    Proofs.frameEmitsSerialization t d _ s hs.mode hs.clear hd hfilter hspace
  obtain rfl : e = u := Host.Outcome.next.inj (he.symm.trans hu)
  obtain ⟨hbefore, -⟩ := hs.roomy
  obtain ⟨hafter, hdepth⟩ := hroomy
  rw [hafter, hbefore, List.append_nil, List.nil_append] at hpopped
  exact ⟨e, vs, he, ⟨hm, hv, hafter, hdepth⟩, hdone, hreads, hpopped⟩

/-- The host goes on after a frame that ends without an error. -/
theorem serializeChunks_cons_of_done {c : Word × List Byte} {s u : State}
    (hu : runAll (frameDrained c.1 c.2) s = .next u) (hdone : u.doneOk = true) (hv : u.errValid = false)
    {cs : List (Word × List Byte)} {bytes : List Byte} {e : State}
    (h : serializeChunks cs (observe (statusWord u) u) = .ok (bytes, e)) :
    serializeChunks (c :: cs) s = .ok (outBytes (u.reads.drop s.reads.length) ++ bytes, e) := by
  simp [serializeChunks, stateAfter_eq hu, hostRead_rdStatus, frameAccepted_statusWord, hdone, hv, h]

/-- The host stops at a frame with an error pending, and answers with its STATUS. -/
theorem serializeChunks_cons_of_pending {c : Word × List Byte} {s u : State}
    (hu : runAll (frameDrained c.1 c.2) s = .next u) (hv : u.errValid = true) (cs : List (Word × List Byte)) :
    serializeChunks (c :: cs) s = .error (statusWord u) := by
  simp [serializeChunks, stateAfter_eq hu, hostRead_rdStatus, frameAccepted_statusWord, hv]

/-- The chunks reach the host one after another, and after one of them DONE_OK is 1. -/
theorem exists_serializeChunks {cs : List (Word × List Byte)} {s : State} (hs : FrameReady s)
    (hcs : ∀ c ∈ cs, c.2.length < 2 ^ 32) :
    ∃ e, serializeChunks cs s = .ok (cs.flatMap fun c => chunkSerialize c.1 c.2, e) ∧ FrameReady e ∧
      (s.doneOk = true ∨ cs ≠ [] → e.doneOk = true) := by
  induction cs generalizing s with
  | nil => exact ⟨s, rfl, hs, fun h => h.resolve_right (· rfl)⟩
  | cons c cs ih =>
    obtain ⟨hc, hcs⟩ := List.forall_mem_cons.1 hcs
    obtain ⟨u, vs, hu, hready, hdone, hreads, hpopped⟩ := exists_runAll_frameDrained hs c.1 hc
    have hready' : FrameReady (observe (statusWord u) u) := ⟨hready.mode, hready.clear, hready.roomy⟩
    obtain ⟨e, he, heready, hedone⟩ := ih hready' hcs
    refine ⟨e, ?_, heready, fun _ => hedone (.inl hdone)⟩
    rw [serializeChunks_cons_of_done hu hdone hready.clear he, hreads, List.drop_left, hpopped, List.flatMap_cons]

/-! ### With an error pending (R54) -/

/-- The commands are dropped, and the reads of OUT leave the error pending. -/
theorem errValid_of_runAll_drained {is : List Instr} (h : ∀ i ∈ is, IsDroppable i) {s t : State}
    (hv : s.errValid = true) (hrun : runAll (drained is) s = .next t) : t.errValid = true := by
  induction is generalizing s with
  | nil =>
    obtain rfl := Host.Outcome.next.inj hrun
    exact hv
  | cons i is ih =>
    obtain ⟨⟨c, hc, rfl⟩, his⟩ := List.forall_mem_cons.1 h
    have hdrain := (runAll_cons (exec_toInstr_of_pending hc hv) _).trans
      (Proofs.drainReturnsPushOrder (spaceNeeded c.toInstr) s)
    rw [drained_cons, runAll_append hdrain] at hrun
    refine ih his ?_ hrun
    exact hv

end Sys2Proof.Machine
end

section
/-! SUPPORT. The host that parses an image (R101): a byte within a chunk leaves the mode outside IDLE, and the last one
brings it back. -/

namespace Sys2Proof.Machine

/-- A command does not look at the values read before, and leaves them. -/
theorem exec_toInstr_withReads {c : Cmd} {s t : State} (h : exec c.toInstr s = .next t) (rs : List Word) :
    exec c.toInstr { s with reads := rs } = .next { t with reads := rs } := by
  obtain ⟨u, u', hu, hu', d', hd', rfl⟩ :=
    exec_toInstr_varied (s := s) (d := s.doneOk) (b := s.cfg.base) (ps := s.pending) (rs := rs) c
  obtain rfl : u = t := Host.Outcome.next.inj (hu.symm.trans h)
  refine hu'.trans ?_
  rw [State.varied, hd' rfl, ← cfg_of_exec h, ← pending_of_exec h]

theorem exec_of_runAll_singleton {i : Instr} {s t : State} (h : runAll [i] s = .next t) : exec i s = .next t := by
  obtain ⟨u, hu⟩ := exec_answers i s
  exact hu.trans ((runAll_cons hu []).symm.trans h)

/-! ### One byte of the host's loop -/

/-- The first byte of a chunk is fed behind RX_START. -/
theorem parseChunks_none {p : List Byte} (hp : p ≠ []) {s : State} (hv : s.errValid = false) (hm : s.mode = .idle) :
    parseChunks p none s = parseChunks p (some []) (rxStarted s) := by
  cases p with
  | nil => exact absurd rfl hp
  | cons b p =>
    simp only [parseChunks, stateAfter_eq (runAll_cons (exec_rxStart_of_idle hv hm) [])]
    rfl

section
variable {b : Byte} {s t : State} (h : exec (.rxByte b) s = .next t) (hv : t.errValid = false)
include h hv

/-- After a byte that leaves the block outside IDLE the chunk goes on. -/
theorem parseChunks_of_inside (hm : t.mode ≠ .idle) (bs fed : List Byte) :
    parseChunks (b :: bs) (some fed) s = parseChunks bs (some (b :: fed)) (observe (statusWord t) t) := by
  simp only [parseChunks, stateAfter_eq (runAll_cons h []), hostRead_rdStatus, statusWord_errValid, statusWord_modeCode,
    Mode.code_eq_zero_iff, hv, hm, Bool.false_eq_true, if_false, Option.getD_some]

/-- After a byte that brings the block back to IDLE the chunk is found. -/
theorem parseChunks_of_last (hm : t.mode = .idle) {bs : List Byte} (fed : List Byte) {cs : List FoundChunk}
    (hrest : parseChunks bs none (observe (statusWord t) t) = .ok cs) :
    parseChunks (b :: bs) (some fed) s =
      .ok ({ len := t.len, type := t.type, crc := t.rxCrc, bytes := (b :: fed).reverse } :: cs) := by
  simp only [parseChunks, stateAfter_eq (runAll_cons h []), hostRead_rdStatus, statusWord_errValid, statusWord_modeCode,
    Mode.code_eq_zero_iff, hv, hm, Bool.false_eq_true, if_false, if_true, Option.getD_some, hrest]
  rfl

end

/-! ### A whole chunk -/

theorem Awaits.errValid {n : Nat} {s : State} (h : Awaits n s) : s.errValid = false := by
  cases h <;> assumption

theorem Awaits.mode_ne_idle {n : Nat} {s : State} (h : Awaits n s) : s.mode ≠ .idle := by
  cases h with
  | len _ hm | type _ hm | data _ hm | crc _ hm => rw [hm]; decide

/-- Bytes that end inside a chunk lead the host where RX_BYTES leads the block, but for the STATUS values read. -/
theorem parseChunks_of_awaits {p : List Byte} {s t : State} (h : Awaits (p.length + 1) s)
    (hrun : runAll (rxBytes p) s = .next t) (bs fed : List Byte) (rs : List Word) :
    ∃ rs', parseChunks (p ++ bs) (some fed) { s with reads := rs } =
      parseChunks bs (some (p.reverse ++ fed)) { t with reads := rs' } := by
  induction p generalizing s fed rs with
  | nil =>
    obtain rfl := Host.Outcome.next.inj hrun
    exact ⟨rs, rfl⟩
  | cons b p ih =>
    obtain ⟨u, hu, hnext⟩ := h.exec_rxByte (Nat.succ_pos _) b
    have hbyte : exec (.rxByte b) { s with reads := rs } = .next { u with reads := rs } :=
      exec_toInstr_withReads (c := .rxByte b) hu rs
    obtain ⟨rs', hrest⟩ := ih hnext ((runAll_cons hu _).symm.trans hrun) (b :: fed)
      (rs ++ [statusWord { u with reads := rs }])
    refine ⟨rs', ?_⟩
    rw [List.cons_append, parseChunks_of_inside hbyte hnext.errValid hnext.mode_ne_idle]
    rw [List.reverse_cons, List.append_assoc]
    exact hrest

/-- Bytes that end a chunk, in IDLE and without an error, lead the host to the chunk they ended. -/
theorem parseChunks_of_end {p : List Byte} {s t : State} (h : Awaits p.length s) (hrun : runAll (rxBytes p) s = .next t)
    (hv : t.errValid = false) (hm : t.mode = .idle) (bs fed : List Byte) (rs : List Word) :
    ∃ e, e.errValid = false ∧ e.mode = .idle ∧ ∀ cs, parseChunks bs none e = .ok cs →
      parseChunks (p ++ bs) (some fed) { s with reads := rs } =
        .ok ({ len := t.len, type := t.type, crc := t.rxCrc, bytes := fed.reverse ++ p } :: cs) := by
  obtain rfl | ⟨m, x, rfl⟩ := List.eq_nil_or_concat' p
  · obtain rfl := Host.Outcome.next.inj hrun
    exact absurd hm h.mode_ne_idle
  · rw [List.length_append, List.length_singleton] at h
    obtain ⟨u, hu⟩ := runAll_answers (rxBytes m) s
    rw [rxBytes_append, runAll_append hu] at hrun
    obtain ⟨rs', hinside⟩ := parseChunks_of_awaits h hu (x :: bs) fed rs
    have hlast : exec (.rxByte x) { u with reads := rs' } = .next { t with reads := rs' } :=
      exec_toInstr_withReads (c := .rxByte x) (exec_of_runAll_singleton hrun) rs'
    refine ⟨observe (statusWord { t with reads := rs' }) { t with reads := rs' }, hv, hm, fun cs hcs => ?_⟩
    rw [List.append_assoc, List.singleton_append, hinside, parseChunks_of_last hlast hv hm _ hcs]
    simp

section
variable {s : State} (hv : s.errValid = false) (hm : s.mode = .idle)
include hv hm

/-- Behind RX_START and the length, the rest of a chunk with its CRC ends in IDLE. -/
theorem runAll_rxBytes_matched (n t : Word) {d : List Byte} (hd : d.length = n.toNat) :
    runAll (rxBytes (be32 t ++ (d ++ be32 (crc32 (be32 t ++ d))))) (rxLenIn n s) =
      .next (rxMatched n t d (crc32 (be32 t ++ d)) s) := by
  have hdata : runAll (rxBytes (be32 t) ++ rxBytes d) (rxLenIn n s) = .next (rxDataIn n t d s) :=
    (runAll_append (runAll_rxStart_len hv hm n) _).symm.trans (runAll_rxStart_data hv hm n t hd)
  have hcrc := runAll_rxBytes_crc (s := rxDataIn n t d s) hv rfl rfl (crc32 (be32 t ++ d))
  rw [crcFinal_rxDataIn, if_pos rfl] at hcrc
  rw [rxBytes_append, rxBytes_append, ← List.append_assoc, runAll_append hdata, hcrc]
  rfl

/-- The host finds a serialized chunk and goes on, from IDLE, with the bytes behind it. -/
theorem parseChunks_chunkSerialize (t : Word) {d : List Byte} (hd : d.length < 2 ^ 32) (bs : List Byte) :
    ∃ e, e.errValid = false ∧ e.mode = .idle ∧ ∀ cs, parseChunks bs none e = .ok cs →
      parseChunks (chunkSerialize t d ++ bs) none s =
        .ok ({ len := BitVec.ofNat 32 d.length, type := t, crc := crc32 (be32 t ++ d), bytes := chunkSerialize t d }
          :: cs) := by
  have hlen : d.length = (BitVec.ofNat 32 d.length).toNat := (Nat.mod_eq_of_lt hd).symm
  have hmatched := runAll_rxBytes_matched hv hm (BitVec.ofNat 32 d.length) t hlen
  rw [chunkSerialize_eq]
  generalize BitVec.ofNat 32 d.length = n at hlen hmatched ⊢
  generalize crc32 (be32 t ++ d) = c at hmatched ⊢
  have hrest : (be32 t ++ (d ++ be32 c)).length + 0 ≤ n.toNat + 8 := by
    simp only [List.length_append, be32_length]
    omega
  have hlenAwaits : Awaits ((be32 n).length + 1) (rxStarted s) := .len hv rfl rfl (show 4 + 1 + 0 ≤ 12 by decide)
  obtain ⟨rs, hlenField⟩ := parseChunks_of_awaits hlenAwaits
    (runAll_rxBytes_len (s := rxStarted s) hv rfl rfl n) (be32 t ++ (d ++ be32 c) ++ bs) [] s.reads
  obtain ⟨e, hev, hem, hfound⟩ := parseChunks_of_end (.type (s := rxLenIn n s) hv rfl rfl hrest) hmatched hv rfl bs
    ((be32 n).reverse ++ []) rs
  refine ⟨e, hev, hem, fun cs hcs => ?_⟩
  rw [chunkBytes, List.append_assoc, parseChunks_none (by simp [be32]) hv hm]
  refine hlenField.trans ((hfound cs hcs).trans ?_)
  rw [List.append_nil, List.reverse_reverse]
  rfl

end

/-- The host finds the chunks of an image's serialization one after another. -/
theorem parseChunks_flatMap {cs : List (Word × List Byte)} {s : State} (hv : s.errValid = false) (hm : s.mode = .idle)
    (hcs : ∀ c ∈ cs, c.2.length < 2 ^ 32) :
    parseChunks (cs.flatMap fun c => chunkSerialize c.1 c.2) none s = .ok (cs.map fun c =>
      { len := BitVec.ofNat 32 c.2.length, type := c.1, crc := crc32 (be32 c.1 ++ c.2),
        bytes := chunkSerialize c.1 c.2 }) := by
  induction cs generalizing s with
  | nil => rfl
  | cons c cs ih =>
    obtain ⟨hc, hcs⟩ := List.forall_mem_cons.1 hcs
    obtain ⟨e, hev, hem, hfound⟩ := parseChunks_chunkSerialize hv hm c.1 hc _
    exact hfound _ (ih hev hem hcs)

end Sys2Proof.Machine
end

section
/-! SUPPORT. The obligations about the host's image sequences. -/

namespace Sys2Proof.Proofs

open Sys2Proof.Machine

/-- Settles O40: every command of a drained frame finds its space, so each frame emits its chunk (R78) and is accepted;
with an error pending the first frame is dropped and its STATUS shows the error. -/
theorem serializedImageReachesHost : Obligations.SerializedImageReachesHost := by
  constructor
  · intro cs s hm hv hfifo hdepth hcs
    obtain ⟨e, he, hready, hdone⟩ := exists_serializeChunks ⟨hm, hv, hfifo, hdepth⟩ hcs
    obtain ⟨hempty, -⟩ := hready.roomy
    exact ⟨e, by rw [serializeImage, he]; rfl, runAll_imageInstrs he, hready.mode, hready.clear, hempty,
      fun hne => hdone (.inr hne)⟩
  · intro cs s hne hv
    obtain ⟨c, cs, rfl⟩ := List.exists_cons_of_ne_nil hne
    obtain ⟨u, hu⟩ := runAll_answers (frameDrained c.1 c.2) s
    have hpending : u.errValid = true :=
      errValid_of_runAll_drained isDroppable_of_mem_frame hv (frameDrained_eq c.1 c.2 ▸ hu)
    refine ⟨statusWord u, ?_, (statusWord_errValid u).trans hpending⟩
    rw [serializeImage, serializeChunks_cons_of_pending hu hpending]

/-- Settles O47, by induction on the chunks: the block is in IDLE again after each chunk's last byte and not before. -/
theorem imageParseFindsChunks : Obligations.ImageParseFindsChunks := by
  intro cs s hm hv hcs
  have htake : (imageSerialize cs).take 8 = pngSignature := List.take_left (l₁ := pngSignature)
  have hdrop : (imageSerialize cs).drop 8 = cs.flatMap fun c => chunkSerialize c.1 c.2 :=
    List.drop_left (l₁ := pngSignature)
  rw [parseImage, if_pos htake, hdrop, parseChunks_flatMap hv hm hcs]

end Sys2Proof.Proofs
end
